-- ==== Sys2Proof/Word.lean ====
section
/-! DEFINITION. The one word type of the block: a byte (00_scope.md R8: "Every port transfer is 8 bits wide"). -/

namespace Sys2Proof

/-- An 8-bit value: a port transfer, the shadow byte, a commandShadow slot, a request argument (R8). -/
abbrev Byte := BitVec 8

end Sys2Proof
end

