-- ==== Sys2Proof/Syntax.lean ====
section
/-! DEFINITION. The block's instructions: the 18 requests (30_encoding.md R92), the 8 HD44780 instructions (R100) and
the 4 bus cycles (R101), one constructor per row of spec/opcode_table.json, and the coded forms they come in. -/

namespace Sys2Proof

/-- The eight HD44780 instructions, in the order of the commandShadow's enum (10_state.md R27). -/
inductive LcdOp where
  | clear
  | home
  | entryMode
  | displayCtrl
  | shift
  | functionSet
  | setCgramAddress
  | setDdramAddress
  deriving DecidableEq, Repr

/-- One instruction of the block. Arguments that R92 marks "ignored" are not operands. -/
inductive Instr where
  /-- POWER_ON (41_lcd_control.md R173). -/
  | powerOn
  /-- POWER_OFF (R174). -/
  | powerOff
  /-- CLEAR (R176). -/
  | clear
  /-- HOME (R177). -/
  | home
  /-- SET_CURSOR col, row (R178). -/
  | setCursor (col row : Byte)
  /-- PRINT text (42_text_and_memory.md R210). -/
  | print (text : List Byte)
  /-- DEFINE_GLYPH index, bitmap (R215). -/
  | defineGlyph (index : Byte) (bitmap : List Byte)
  /-- SET_CONTRAST level (43_potentiometer.md R248). -/
  | setContrast (level : Byte)
  /-- SET_BACKLIGHT level (R249). -/
  | setBacklight (level : Byte)
  /-- SET_BLINK on (41_lcd_control.md R180). -/
  | setBlink (on : Bool)
  /-- SET_CURSOR_VISIBLE on (R181). -/
  | setCursorVisible (on : Bool)
  /-- SET_DISPLAY_VISIBLE on (R182). -/
  | setDisplayVisible (on : Bool)
  /-- READ_ROW row (42_text_and_memory.md R216). -/
  | readRow (row : Byte)
  /-- CLOSE (41_lcd_control.md R175). -/
  | close
  /-- CONTRAST_INC (43_potentiometer.md R250). -/
  | contrastInc
  /-- CONTRAST_DEC (R251). -/
  | contrastDec
  /-- BACKLIGHT_INC (R250). -/
  | backlightInc
  /-- BACKLIGHT_DEC (R251). -/
  | backlightDec
  /-- HD44780 CLEAR, `0000 0001` (30_encoding.md R100). -/
  | hdClear
  /-- HD44780 HOME, `0000 001x`. -/
  | hdHome
  /-- HD44780 ENTRY_MODE, `0000 01is`: I/D and S. -/
  | hdEntryMode (id sh : Bool)
  /-- HD44780 DISPLAY_CTRL, `0000 1dcb`: D, C and B. -/
  | hdDisplayCtrl (d c b : Bool)
  /-- HD44780 SHIFT, `0001 srxx`: S/C and R/L. -/
  | hdShift (sc rl : Bool)
  /-- HD44780 FUNCTION_SET, `001l nfxx`: DL, N and F. -/
  | hdFunctionSet (dl n f : Bool)
  /-- HD44780 SET_CGRAM_ADDRESS, `01aa aaaa`. -/
  | hdSetCgramAddress (addr : BitVec 6)
  /-- HD44780 SET_DDRAM_ADDRESS, `1aaa aaaa`. -/
  | hdSetDdramAddress (addr : BitVec 7)
  /-- The bus cycle RS=0, RW=0: write an instruction byte (R101, 40_bus_primitives.md R140). -/
  | busInstructionWrite (data : Byte)
  /-- The bus cycle RS=0, RW=1: read the busy flag (R101, R139). -/
  | busBusyRead
  /-- The bus cycle RS=1, RW=0: write a data byte (R101, R142). -/
  | busDataWrite (data : Byte)
  /-- The bus cycle RS=1, RW=1: read a data byte (R101, R143). -/
  | busDataRead
  deriving DecidableEq, Repr

/-- A coded instruction, in one of the spec's three encodings. -/
inductive Code where
  /-- A request: the 32-bit word `W` and the payload `P` (R90, R91). The only form the host can give. -/
  | request (word : BitVec 32) (payload : List Byte)
  /-- DESIGN CHOICE (log entry 8): an HD44780 instruction byte (R100), for the sequencer's `command` run alone. -/
  | lcd (byte : Byte)
  /-- DESIGN CHOICE (log entry 9): a control byte of an EN pulse (R101) and the data byte a write cycle puts on port 1. -/
  | bus (control data : Byte)
  deriving DecidableEq, Repr

/-- The host's own form: a request of R90. The other two forms are the sequencer's (40_bus_primitives.md, opening:
"The host cannot issue these operations directly"). -/
def Code.isRequest : Code → Bool
  | .request _ _ => true
  | .lcd _ => false
  | .bus _ _ => false

end Sys2Proof
end

