-- ==== Sys2Proof/Config.lean ====
section
/-! DEFINITION. What an implementation fixes (00_scope.md R7), as plain data carried by the state, and the free values:
constants without a body, so that nothing can be proved of what they are. -/

namespace Sys2Proof

/-- One value per HD44780 instruction (the shape of the commandShadow, 10_state.md R27, and of `T_EXEC(op)`, R7). -/
structure PerOp (α : Type) where
  clear : α
  home : α
  entryMode : α
  displayCtrl : α
  shift : α
  functionSet : α
  setCgramAddress : α
  setDdramAddress : α
  deriving DecidableEq, Repr

/-- The value of one instruction. -/
def PerOp.get {α : Type} (p : PerOp α) : LcdOp → α
  | .clear => p.clear
  | .home => p.home
  | .entryMode => p.entryMode
  | .displayCtrl => p.displayCtrl
  | .shift => p.shift
  | .functionSet => p.functionSet
  | .setCgramAddress => p.setCgramAddress
  | .setDdramAddress => p.setDdramAddress

/-- Replace the value of one instruction. -/
def PerOp.set {α : Type} (p : PerOp α) (op : LcdOp) (v : α) : PerOp α :=
  match op with
  | .clear => { p with clear := v }
  | .home => { p with home := v }
  | .entryMode => { p with entryMode := v }
  | .displayCtrl => { p with displayCtrl := v }
  | .shift => { p with shift := v }
  | .functionSet => { p with functionSet := v }
  | .setCgramAddress => { p with setCgramAddress := v }
  | .setDdramAddress => { p with setDdramAddress := v }

/-- The mask of each control-bus signal: the parameter `SIGMAP` (R7, 10_state.md R24). -/
structure SigMap where
  rs : Byte
  rw : Byte
  en : Byte
  irs : Byte
  ccs : Byte
  bcs : Byte
  ud : Byte
  pwr : Byte
  deriving DecidableEq, Repr

/-- The DDRAM base address of each normalised row, per declared geometry: the parameter `ADDR_TABLE`
(R7, 20_memory.md R63). Field `g16x1` is the row of the declared pair (16, 1), and so on. -/
structure AddrTable where
  g16x1 : List (BitVec 7)
  g16x2 : List (BitVec 7)
  g16x4 : List (BitVec 7)
  g20x2 : List (BitVec 7)
  g20x4 : List (BitVec 7)
  g40x2 : List (BitVec 7)
  g40x4 : List (BitVec 7)
  deriving DecidableEq, Repr

/-- Which time parameter labels a `DLY` event (R7, R13). -/
inductive TimeParam where
  | fs1
  | fs2
  | fs3
  | exec (op : LcdOp)
  deriving DecidableEq, Repr

/-- The parameters of R7 that are not constants. Times are in microseconds (DESIGN CHOICE, log entry 21). -/
structure Params where
  /-- `SIGMAP`. -/
  sig : SigMap
  /-- `ADDR_TABLE`. -/
  addrTable : AddrTable
  /-- `ONE_LINE_N_BIT`: true is 1. -/
  oneLineN : Bool
  /-- `BF_MASK`. -/
  bfMask : Byte
  /-- `T_FS1`. -/
  tFs1 : Nat
  /-- `T_FS2`. -/
  tFs2 : Nat
  /-- `T_FS3`. -/
  tFs3 : Nat
  /-- `T_EXEC(op)`. -/
  tExec : PerOp Nat
  /-- `POLL_DEADLINE`: `none`, or a count of iterations. -/
  pollDeadline : Option Nat
  deriving DecidableEq, Repr

/-- The duration a `DLY` label stands for. No rule of the model reads it (70_reset_and_hazards.md R311). -/
def Params.delay (p : Params) : TimeParam → Nat
  | .fs1 => p.tFs1
  | .fs2 => p.tFs2
  | .fs3 => p.tFs3
  | .exec op => p.tExec.get op

/-- `WIPER_MAX` (R7): its one legal value. -/
def Config.wiperMax : Nat := 63

/-- `GLYPHS` (R7): its one legal value. -/
def Config.glyphs : Nat := 8

/-- The default `SIGMAP` of R7. PRESUMED (log entry 16). -/
def Config.defaultSig : SigMap :=
  { rs := 0x01, rw := 0x02, en := 0x04, irs := 0x08, ccs := 0x10, bcs := 0x20, ud := 0x40, pwr := 0x80 }

/-- The default `ADDR_TABLE` of 20_memory.md R63. PRESUMED (log entry 16). -/
def Config.defaultTable : AddrTable :=
  { g16x1 := [0x00, 0x40]
    g16x2 := [0x00, 0x40]
    g16x4 := [0x00, 0x40, 0x10, 0x50]
    g20x2 := [0x00, 0x40]
    g20x4 := [0x00, 0x40, 0x14, 0x54]
    g40x2 := [0x00, 0x40]
    g40x4 := [0x00, 0x40, 0x14, 0x54] }

/-- The default parameters of R7. PRESUMED (log entry 16). -/
def Config.defaults : Params :=
  { sig := Config.defaultSig
    addrTable := Config.defaultTable
    oneLineN := false
    bfMask := 0x80
    tFs1 := 4100
    tFs2 := 100
    tFs3 := 37
    tExec :=
      { clear := 1520, home := 1520, entryMode := 37, displayCtrl := 37, shift := 37, functionSet := 37
        setCgramAddress := 37, setDdramAddress := 37 }
    pollDeadline := none }

/-- FREE VALUE (log entry 6): what the n-th `PortIn(1)` answers when the state lists no answer for it
(10_state.md R45: "a draw (an oracle answer), under no law"). -/
opaque Config.portIn : Nat → Byte

/-- FREE VALUE (log entry 15): the shadow byte after a construction whose latch read faulted
(70_reset_and_hazards.md R300: "`st.shadow` unknown"). -/
opaque Config.latchUnknown : Byte

end Sys2Proof
end

