-- ==== Sys2Proof/Machine/State.lean ====
section
/-! DEFINITION. The state of the block (10_state.md R20, R34 to R37), with the sequencer's position (R21), the observation
(00_scope.md R13) and the environment's answers (10_state.md R45), as plain data; its named updates; its reset. -/

namespace Sys2Proof.Machine

/-- The two ports of the expander (20_memory.md R60): 0 is control, 1 is data. -/
inductive Port where
  | control
  | data
  deriving DecidableEq, Repr

/-- The two potentiometer instances (00_scope.md R9). -/
inductive Pot where
  | contrast
  | backlight
  deriving DecidableEq, Repr

/-- How a transfer waits for the LCD (10_state.md R30). -/
inductive WaitMode where
  | timedDelay
  | busyPoll
  deriving DecidableEq, Repr

/-- The protocol state (10_state.md R31). -/
inductive Ctrl where
  | uninitialized
  | initializing
  | ready
  deriving DecidableEq, Repr

/-- `st.geom` (10_state.md R34): the declared pair, the normalised pair and the row bases. -/
structure Geometry where
  declCols : Nat
  declRows : Nat
  cols : Nat
  rows : Nat
  base : List (BitVec 7)
  deriving DecidableEq, Repr

/-- The response statuses (30_encoding.md R110). -/
inductive Status where
  | ok
  | configurationError
  | rangeError
  | busFault
  | protocolPrecondition
  | illegalRequest
  deriving DecidableEq, Repr

/-- A response `(S, Q)` (30_encoding.md R90). -/
structure Response where
  status : Status
  data : List Byte
  deriving DecidableEq, Repr

/-- A transaction as issued, before its answer (00_scope.md R12). -/
inductive Tx where
  | dir (p : Port) (m : Byte)
  | wc (v : Byte)
  | wd (v : Byte)
  | rc
  | rd
  deriving DecidableEq, Repr

/-- The trace events of 00_scope.md R13, and the two markers of 95_test_vectors.md section 0. -/
inductive Event where
  /-- `DIR(p,m)`. -/
  | dir (p : Port) (m : Byte)
  /-- `WC(v)`. -/
  | wc (v : Byte)
  /-- `WD(v)`. -/
  | wd (v : Byte)
  /-- `RC->v`. -/
  | rc (v : Byte)
  /-- `RD->v`. -/
  | rd (v : Byte)
  /-- `DLY(t)`. -/
  | dly (t : TimeParam)
  /-- `<fails: e>`: the transaction was issued and faulted. DESIGN CHOICE (log entry 12). -/
  | fails (t : Tx)
  /-- `<deadline reached: BusFault>`. DESIGN CHOICE (log entry 12). -/
  | deadline
  deriving DecidableEq, Repr

/-- One step of a request's pseudocode. A request in progress is the list of those still to run: R21 lets a model hold the
sequencer's position "as the continuation of the request's pseudocode". -/
inductive Micro where
  /-- `setSignal(mask, on)` (40_bus_primitives.md R136). -/
  | signal (mask : Byte) (on : Bool)
  /-- `setDir(p, mask, input)` (R137). -/
  | dir (p : Port) (mask : Byte) (input : Bool)
  /-- `PortOut(1, b)` (R131). -/
  | dataOut (b : Byte)
  /-- `v <- PortIn(1); out <- out ++ [v]` (R133, R143). -/
  | sample
  /-- `waitReady()` (R138). -/
  | wait
  /-- `busyPoll()` (R139) that has read BF set `n` times. -/
  | poll (n : Nat)
  /-- `Delay(t)` (R134). -/
  | delay (t : TimeParam)
  /-- `cs[op] <- value` (R140, step 4). -/
  | record (op : LcdOp) (value : Byte)
  /-- `st.col <- c; st.row <- r`. -/
  | cursor (c r : Nat)
  /-- `st.pot[k].pos <- p`. -/
  | pos (k : Pot) (p : Nat)
  /-- `st.waitMode <- m`. -/
  | mode (m : WaitMode)
  /-- `st.ctrl <- c`. -/
  | ctrl (c : Ctrl)
  /-- `st.powered <- b`. -/
  | powered (b : Bool)
  /-- `st.closed <- true`. -/
  | close
  /-- `respond (OK, out)`. -/
  | respond
  deriving DecidableEq, Repr

/-- Why the machine stops. Only a coded form that is no operation of the block stops it: the host's requests never do. -/
inductive Fault where
  /-- Raised by `step` on the instruction byte 0x00, which is none of the eight of 30_encoding.md R100. Safe: the
  sequencer never sends it. -/
  | noLcdInstruction
  /-- Raised by `step` on a control byte with EN = 0, which is no bus cycle (30_encoding.md R101). Safe: a bus cycle is
  the EN pulse. -/
  | noBusCycle
  deriving DecidableEq, Repr

/-- Why an instruction has no meaning. -/
inductive Refusal where
  /-- Raised by `exec` for an instruction of the table that has no meaning yet; no arm does. Safe. -/
  | notModelled (mnemonic : String)
  deriving DecidableEq, Repr

/-- The block, its observation and its environment's answers. -/
structure State where
  /-- The parameters of 00_scope.md R7, fixed for the block's life. -/
  cfg : Params
  /-- `st.geom` (10_state.md R34); `none` is the terminal state ConfigError (R37). -/
  geom : Option Geometry
  /-- `st.shadow` (R22). -/
  shadow : Byte
  /-- `st.dir[0]` (R26): bit = 1 is an input. -/
  dirControl : Byte
  /-- `st.dir[1]` (R26). -/
  dirData : Byte
  /-- `cs`, the commandShadow (R27). -/
  cs : PerOp Byte
  /-- `st.col` (R29). -/
  col : Nat
  /-- `st.row` (R29). -/
  row : Nat
  /-- `st.waitMode` (R30). -/
  waitMode : WaitMode
  /-- `st.ctrl` (R31). -/
  ctrl : Ctrl
  /-- `st.powered` (R32). -/
  powered : Bool
  /-- `st.pot[CONTRAST].pos` (R33). -/
  contrast : Nat
  /-- `st.pot[BACKLIGHT].pos` (R33). -/
  backlight : Nat
  /-- `st.closed` (R35). -/
  closed : Bool
  /-- `st.faulted` (R36). -/
  faulted : Bool
  /-- The rest of the request in progress (R21); `[]` is idle. -/
  seq : List Micro
  /-- `out` of `readBlock` (40_bus_primitives.md R143): the bytes read so far by the request in progress. -/
  out : List Byte
  /-- The response of the last request answered (30_encoding.md R90); `none` while a request is in progress. -/
  response : Option Response
  /-- The events of the last request given (00_scope.md R13). -/
  trace : List Event
  /-- The model's own (log entry 1): what the request port will be given, the next one first. -/
  queue : List Code
  /-- The model's own (log entry 6): the answers of the next `PortIn(1)` transactions. -/
  inputs : List Byte
  /-- The model's own (log entry 6): how many `PortIn(1)` transactions were made, the argument of `Config.portIn`. -/
  reads : Nat
  /-- The model's own (log entry 7): `some n`: n more transactions succeed and the next fails; `none`: none fails. -/
  faultIn : Option Nat
  deriving DecidableEq, Repr

/-- Append an event to the trace. -/
def State.emit (s : State) (e : Event) : State := { s with trace := s.trace ++ [e] }

/-- `st.shadow <- v`. -/
def State.setShadow (s : State) (v : Byte) : State := { s with shadow := v }

/-- `st.dir[p]`. -/
def State.dirOf (s : State) : Port → Byte
  | .control => s.dirControl
  | .data => s.dirData

/-- `st.dir[p] <- m`. -/
def State.setDirOf (s : State) (p : Port) (m : Byte) : State :=
  match p with
  | .control => { s with dirControl := m }
  | .data => { s with dirData := m }

/-- `cs[op] <- v`. -/
def State.record (s : State) (op : LcdOp) (v : Byte) : State := { s with cs := s.cs.set op v }

/-- `st.col <- c; st.row <- r`. -/
def State.setCursor (s : State) (c r : Nat) : State := { s with col := c, row := r }

/-- `st.pot[k].pos`. -/
def State.posOf (s : State) : Pot → Nat
  | .contrast => s.contrast
  | .backlight => s.backlight

/-- `st.pot[k].pos <- p`. -/
def State.setPosOf (s : State) (k : Pot) (p : Nat) : State :=
  match k with
  | .contrast => { s with contrast := p }
  | .backlight => { s with backlight := p }

/-- `st.waitMode <- m`. -/
def State.setMode (s : State) (m : WaitMode) : State := { s with waitMode := m }

/-- `st.ctrl <- c`. -/
def State.setCtrl (s : State) (c : Ctrl) : State := { s with ctrl := c }

/-- `st.powered <- b`. -/
def State.setPowered (s : State) (b : Bool) : State := { s with powered := b }

/-- `st.closed <- true`. -/
def State.setClosed (s : State) : State := { s with closed := true }

/-- `st.faulted <- true`. -/
def State.setFaulted (s : State) : State := { s with faulted := true }

/-- Set the rest of the request in progress. -/
def State.setSeq (s : State) (ms : List Micro) : State := { s with seq := ms }

/-- Append a byte to those read. -/
def State.pushOut (s : State) (v : Byte) : State := { s with out := s.out ++ [v] }

/-- End the request in progress with a response. -/
def State.answer (s : State) (r : Response) : State := { s with seq := [], out := [], response := some r }

/-- Take a new request: a new trace, nothing read, no response yet. -/
def State.begin (s : State) : State := { s with seq := [], out := [], response := none, trace := [] }

/-- Set what the request port will be given. -/
def State.setQueue (s : State) (q : List Code) : State := { s with queue := q }

/-- One `PortIn(1)` answer is used up. -/
def State.takeInput (s : State) : State := { s with inputs := s.inputs.drop 1, reads := s.reads + 1 }

/-- Set how many transactions succeed before one fails. -/
def State.setFaultIn (s : State) (f : Option Nat) : State := { s with faultIn := f }

/-- The block right after `construct(16, 2)` (70_reset_and_hazards.md R300, R301), with the parameters of R7's defaults
and the control latch read as 0x00, as 95_test_vectors.md takes them. DESIGN CHOICE (log entries 1, 2, 3, 6, 7, 13) for the
geometry, the latch value, and the model's own fields. -/
def State.reset : State :=
  { cfg := Config.defaults
    geom := some { declCols := 16, declRows := 2, cols := 16, rows := 2, base := [0x00, 0x40] }
    shadow := 0x00
    dirControl := 0xFF
    dirData := 0xFF
    cs :=
      { clear := 0x00, home := 0x00, entryMode := 0x00, displayCtrl := 0x00, shift := 0x00, functionSet := 0x00
        setCgramAddress := 0x00, setDdramAddress := 0x00 }
    col := 0
    row := 0
    waitMode := .timedDelay
    ctrl := .uninitialized
    powered := false
    contrast := 0
    backlight := 0
    closed := false
    faulted := false
    seq := []
    out := []
    response := none
    trace := [.rc 0x00]
    queue := []
    inputs := []
    reads := 0
    faultIn := none }

end Sys2Proof.Machine
end

