-- ==== Sys2Proof/Machine/Flags.lean ====
section
/-! DEFINITION. The block's flags in use: the busy flag's test (30_encoding.md R102), the state checks of admission
(60_exceptions.md R277) and the status codes (30_encoding.md R110). -/

namespace Sys2Proof.Machine

/-- R102: "The block tests only `(v & BF_MASK) != 0`". -/
def busyFlag (p : Params) (v : Byte) : Bool := decide (v &&& p.bfMask ≠ 0x00#8)

/-- R146: a poll that has read BF set `n` times has reached the deadline. -/
def deadlineReached (p : Params) (n : Nat) : Bool :=
  match p.pollDeadline with
  | none => false
  | some k => decide (k ≤ n)

/-- R277, the checks on an operational block's state, in order. `needReady` is false for POWER_ON, POWER_OFF and CLOSE. -/
def admission (needReady : Bool) (s : State) : Option Status :=
  if s.faulted then some .busFault
  else if s.closed then some .protocolPrecondition
  else if needReady && decide (s.ctrl ≠ .ready) then some .protocolPrecondition
  else none

/-- The status code `S` (R110). -/
def statusCode : Status → Byte
  | .ok => 0x00
  | .configurationError => 0x01
  | .rangeError => 0x02
  | .busFault => 0x03
  | .protocolPrecondition => 0x04
  | .illegalRequest => 0x05

end Sys2Proof.Machine
end

