-- ==== Sys2Proof/WellFormed.lean ====
section
/-! DEFINITION. Which instructions are well formed. Every operand but one has exactly the width its type gives; the one
check left is the glyph bitmap's length (30_encoding.md R93 (d), R95). -/

namespace Sys2Proof

/-- R93 (d): a DEFINE_GLYPH bitmap has exactly 8 bytes. Every other operand fits its field by its type. -/
def Instr.wf : Instr → Bool
  | .defineGlyph _ bitmap => bitmap.length == 8
  | .powerOn => true
  | .powerOff => true
  | .clear => true
  | .home => true
  | .setCursor _ _ => true
  | .print _ => true
  | .setContrast _ => true
  | .setBacklight _ => true
  | .setBlink _ => true
  | .setCursorVisible _ => true
  | .setDisplayVisible _ => true
  | .readRow _ => true
  | .close => true
  | .contrastInc => true
  | .contrastDec => true
  | .backlightInc => true
  | .backlightDec => true
  | .hdClear => true
  | .hdHome => true
  | .hdEntryMode _ _ => true
  | .hdDisplayCtrl _ _ _ => true
  | .hdShift _ _ => true
  | .hdFunctionSet _ _ _ => true
  | .hdSetCgramAddress _ => true
  | .hdSetDdramAddress _ => true
  | .busInstructionWrite _ => true
  | .busBusyRead => true
  | .busDataWrite _ => true
  | .busDataRead => true

end Sys2Proof
end

