-- ==== Sys2Proof/Decode.lean ====
section
/-! DEFINITION. Decoding and encoding of the three coded forms: request words (30_encoding.md R91 to R94), HD44780
instruction bytes (R100) and control bytes (R101). -/

namespace Sys2Proof

/-- Why a coded form is no instruction. The first four are R93 (b), (a), (c), (d); a request's response does not tell
them apart (R94: "returns either a request or IllegalRequest"). -/
inductive DecodeError where
  /-- R93 (b): RSV is not 0x00. -/
  | reservedField
  /-- R93 (a): OP is 0x00, 0x0F or 0x14 to 0xFF. -/
  | unknownOp
  /-- R93 (c): a payload on a request that takes none. -/
  | payloadNotEmpty
  /-- R93 (d): a DEFINE_GLYPH payload whose length is not 8. -/
  | glyphLength
  /-- The byte 0x00 is none of the eight instruction bytes of R100. -/
  | noLcdInstruction
  /-- A control byte with EN = 0 is no bus cycle (R101: "the RS and RW levels ... during the EN pulse"). -/
  | noBusCycle
  deriving DecidableEq, Repr

/-- The 8-bit field of a request word whose lowest bit is `lo` (R91). -/
def byteAt (w : BitVec 32) (lo : Nat) : Byte := w.extractLsb' lo 8

/-- R93 (c): a request that takes no payload. -/
def noPayload (p : List Byte) (i : Instr) : Except DecodeError Instr :=
  match p with
  | [] => .ok i
  | _ :: _ => .error .payloadNotEmpty

/-- R94, with the operation codes of R92. -/
def decodeRequest (w : BitVec 32) (p : List Byte) : Except DecodeError Instr :=
  if byteAt w 24 ≠ 0x00#8 then .error .reservedField
  else
    match (byteAt w 0).toNat with
    | 0x01 => noPayload p .powerOn
    | 0x02 => noPayload p .powerOff
    | 0x03 => noPayload p .clear
    | 0x04 => noPayload p .home
    | 0x05 => noPayload p (.setCursor (byteAt w 8) (byteAt w 16))
    | 0x06 => .ok (.print p)
    | 0x07 => if p.length = 8 then .ok (.defineGlyph (byteAt w 8) p) else .error .glyphLength
    | 0x08 => noPayload p (.setContrast (byteAt w 8))
    | 0x09 => noPayload p (.setBacklight (byteAt w 8))
    | 0x0A => noPayload p (.setBlink ((byteAt w 8).getLsbD 0))
    | 0x0B => noPayload p (.setCursorVisible ((byteAt w 8).getLsbD 0))
    | 0x0C => noPayload p (.setDisplayVisible ((byteAt w 8).getLsbD 0))
    | 0x0D => noPayload p (.readRow (byteAt w 8))
    | 0x0E => noPayload p .close
    | 0x10 => noPayload p .contrastInc
    | 0x11 => noPayload p .contrastDec
    | 0x12 => noPayload p .backlightInc
    | 0x13 => noPayload p .backlightDec
    | _ => .error .unknownOp

/-- R100: "An instruction byte is decoded by its highest set bit". Don't-care bits are not operands. -/
def decodeLcd (b : Byte) : Except DecodeError Instr :=
  if b.getLsbD 7 then .ok (.hdSetDdramAddress (b.extractLsb' 0 7))
  else if b.getLsbD 6 then .ok (.hdSetCgramAddress (b.extractLsb' 0 6))
  else if b.getLsbD 5 then .ok (.hdFunctionSet (b.getLsbD 4) (b.getLsbD 3) (b.getLsbD 2))
  else if b.getLsbD 4 then .ok (.hdShift (b.getLsbD 3) (b.getLsbD 2))
  else if b.getLsbD 3 then .ok (.hdDisplayCtrl (b.getLsbD 2) (b.getLsbD 1) (b.getLsbD 0))
  else if b.getLsbD 2 then .ok (.hdEntryMode (b.getLsbD 1) (b.getLsbD 0))
  else if b.getLsbD 1 then .ok .hdHome
  else if b.getLsbD 0 then .ok .hdClear
  else .error .noLcdInstruction

/-- Whether the control byte `v` has the signal `mask` at 1. -/
def signalHigh (mask v : Byte) : Bool := decide (v &&& mask ≠ 0#8)

/-- R101: the four bus cycles, told apart by RS and RW while EN = 1. The other signals are "carried unchanged"
(spec/opcode_table.json) and are not operands; a read cycle has no data operand. -/
def decodeBus (sg : SigMap) (control data : Byte) : Except DecodeError Instr :=
  match signalHigh sg.en control, signalHigh sg.rs control, signalHigh sg.rw control with
  | false, _, _ => .error .noBusCycle
  | true, false, false => .ok (.busInstructionWrite data)
  | true, false, true => .ok .busBusyRead
  | true, true, false => .ok (.busDataWrite data)
  | true, true, true => .ok .busDataRead

/-- The decoder. It reads no state (R94), only the wiring `SIGMAP` for control bytes. -/
def decode (sg : SigMap) : Code → Except DecodeError Instr
  | .request w p => decodeRequest w p
  | .lcd b => decodeLcd b
  | .bus control data => decodeBus sg control data

/-- The opcode constants of R100. PRESUMED (log entry 17). -/
def lcdOpcode : LcdOp → Byte
  | .clear => 0x01
  | .home => 0x02
  | .entryMode => 0x04
  | .displayCtrl => 0x08
  | .shift => 0x10
  | .functionSet => 0x20
  | .setCgramAddress => 0x40
  | .setDdramAddress => 0x80

/-- `mask` if `on`, else no bit. -/
def flagBit (mask : Byte) (on : Bool) : Byte := if on then mask else 0x00

/-- ENTRY_MODE's value bits: bit 1 I/D, bit 0 S (10_state.md R28). -/
def entryModeValue (id sh : Bool) : Byte := flagBit 0x02 id ||| flagBit 0x01 sh

/-- DISPLAY_CTRL's value bits: bit 2 D, bit 1 C, bit 0 B (R28). -/
def displayCtrlValue (d c b : Bool) : Byte := flagBit 0x04 d ||| flagBit 0x02 c ||| flagBit 0x01 b

/-- SHIFT's value bits: bit 3 S/C, bit 2 R/L (R28). -/
def shiftValue (sc rl : Bool) : Byte := flagBit 0x08 sc ||| flagBit 0x04 rl

/-- FUNCTION_SET's value bits: bit 4 DL, bit 3 N, bit 2 F (R28). -/
def functionSetValue (dl n f : Bool) : Byte := flagBit 0x10 dl ||| flagBit 0x08 n ||| flagBit 0x04 f

/-- R91, R96: `OP | (ARG0 << 8) | (ARG1 << 16)`, RSV = 0. -/
def requestWord (op a0 a1 : Byte) : BitVec 32 := 0x00#8 ++ (a1 ++ (a0 ++ op))

/-- A boolean argument is written 0 or 1 (R96). -/
def boolArg (on : Bool) : Byte := flagBit 0x01 on

/-- The encoder: R91, R92 and R96 for requests (ignored arguments encode as 0), R100 for instruction bytes (don't-care
bits 0), R101 for control bytes (the carried signals 0). -/
def encode (sg : SigMap) : Instr → Code
  | .powerOn => .request (requestWord 0x01 0 0) []
  | .powerOff => .request (requestWord 0x02 0 0) []
  | .clear => .request (requestWord 0x03 0 0) []
  | .home => .request (requestWord 0x04 0 0) []
  | .setCursor col row => .request (requestWord 0x05 col row) []
  | .print text => .request (requestWord 0x06 0 0) text
  | .defineGlyph index bitmap => .request (requestWord 0x07 index 0) bitmap
  | .setContrast level => .request (requestWord 0x08 level 0) []
  | .setBacklight level => .request (requestWord 0x09 level 0) []
  | .setBlink on => .request (requestWord 0x0A (boolArg on) 0) []
  | .setCursorVisible on => .request (requestWord 0x0B (boolArg on) 0) []
  | .setDisplayVisible on => .request (requestWord 0x0C (boolArg on) 0) []
  | .readRow row => .request (requestWord 0x0D row 0) []
  | .close => .request (requestWord 0x0E 0 0) []
  | .contrastInc => .request (requestWord 0x10 0 0) []
  | .contrastDec => .request (requestWord 0x11 0 0) []
  | .backlightInc => .request (requestWord 0x12 0 0) []
  | .backlightDec => .request (requestWord 0x13 0 0) []
  | .hdClear => .lcd (lcdOpcode .clear)
  | .hdHome => .lcd (lcdOpcode .home)
  | .hdEntryMode id sh => .lcd (lcdOpcode .entryMode ||| entryModeValue id sh)
  | .hdDisplayCtrl d c b => .lcd (lcdOpcode .displayCtrl ||| displayCtrlValue d c b)
  | .hdShift sc rl => .lcd (lcdOpcode .shift ||| shiftValue sc rl)
  | .hdFunctionSet dl n f => .lcd (lcdOpcode .functionSet ||| functionSetValue dl n f)
  | .hdSetCgramAddress addr => .lcd (lcdOpcode .setCgramAddress ||| addr.setWidth 8)
  | .hdSetDdramAddress addr => .lcd (lcdOpcode .setDdramAddress ||| addr.setWidth 8)
  | .busInstructionWrite data => .bus sg.en data
  | .busBusyRead => .bus (sg.en ||| sg.rw) 0x00
  | .busDataWrite data => .bus (sg.en ||| sg.rs) data
  | .busDataRead => .bus (sg.en ||| sg.rs ||| sg.rw) 0x00

/-- DESIGN CHOICE (log entry 11): the coded form of a table word. A 32-bit word is a request word, with the payload the
request takes when every byte of it is 0. An 8-bit word from 0x04 to 0x07 is a control byte under the default `SIGMAP`
with its carried signals 0, any other an HD44780 instruction byte: the table gives both kinds 8 bits. -/
def tableCode (nbits w : Nat) : Option Code :=
  match nbits with
  | 32 => some (.request (BitVec.ofNat 32 w) (if w % 256 = 7 then List.replicate 8 0x00#8 else []))
  | 8 => some (if 4 ≤ w ∧ w ≤ 7 then .bus (BitVec.ofNat 8 w) 0x00 else .lcd (BitVec.ofNat 8 w))
  | _ => none

/-- The instruction the decoder reads from a table word, control bytes under the default `SIGMAP`. -/
def decodeTableWord (nbits w : Nat) : Option Instr :=
  match tableCode nbits w with
  | none => none
  | some c => (decode Config.defaultSig c).toOption

end Sys2Proof
end

