-- ==== Sys2Proof/Machine/Operands.lean ====
section
/-! DEFINITION. What requests compute from their operands: geometry and the DDRAM translator (20_memory.md), the
FUNCTION_SET value (41_lcd_control.md R170), display toggles (R179), wiper targets (43_potentiometer.md R245), and the
text layout's lines, words and spans (42_text_and_memory.md R211, R212). -/

namespace Sys2Proof.Machine

/-- 20_memory.md R62: (16,1) is handled as 8 columns by 2 rows, every other pair as declared. -/
def normalise (declCols declRows : Nat) : Nat × Nat :=
  if declCols = 16 ∧ declRows = 1 then (8, 2) else (declCols, declRows)

/-- 20_memory.md R61, R63: the row bases of a declared pair; `none` for a pair that is not supported. -/
def rowBases (t : AddrTable) (declCols declRows : Nat) : Option (List (BitVec 7)) :=
  match declCols, declRows with
  | 16, 1 => some t.g16x1
  | 16, 2 => some t.g16x2
  | 16, 4 => some t.g16x4
  | 20, 2 => some t.g20x2
  | 20, 4 => some t.g20x4
  | 40, 2 => some t.g40x2
  | 40, 4 => some t.g40x4
  | _, _ => none

/-- `st.geom` of a declared pair (70_reset_and_hazards.md R300). -/
def geometryOf (p : Params) (declCols declRows : Nat) : Option Geometry :=
  match rowBases p.addrTable declCols declRows with
  | none => none
  | some base =>
    some
      { declCols := declCols
        declRows := declRows
        cols := (normalise declCols declRows).1
        rows := (normalise declCols declRows).2
        base := base }

/-- `base[r]`. Outside the list, which no row of a constructed geometry is, 0 (log entry 29). -/
def rowBase (g : Geometry) (r : Nat) : Nat := (g.base.getD r 0).toNat

/-- 20_memory.md R64: `ddram(c, r) = base[r] + c`, as the value operand of SET_DDRAM_ADDRESS (log entry 28). -/
def ddram (g : Geometry) (c r : Nat) : Byte := BitVec.ofNat 8 (rowBase g r + c)

/-- The row below, modulo `rows` (42_text_and_memory.md R210). -/
def nextRow (g : Geometry) (r : Nat) : Nat := (r + 1) % g.rows

/-- 20_memory.md R67: the CGRAM address of glyph `index`. -/
def glyphAddress (index : Byte) : Byte := index <<< 3

/-- 41_lcd_control.md R170: DL, then N from the declared row count, then F = 0. -/
def fsValue (p : Params) (g : Geometry) : Byte :=
  let n : Byte := if g.declRows = 1 then flagBit 0x08 p.oneLineN else 0x08
  0x10 ||| n ||| 0x00

/-- 41_lcd_control.md R179: flip one bit of the previous value, keep the others. -/
def toggled (bit : Byte) (on : Bool) (v : Byte) : Byte := if on then v ||| bit else v &&& ~~~bit

/-- 43_potentiometer.md R245: `clamp(target, 0, 63)` of an unsigned target. -/
def clampWiper (target : Nat) : Nat := min target Config.wiperMax

/-- `cs(k)` (43_potentiometer.md R240). -/
def selectMask (sg : SigMap) : Pot → Byte
  | .contrast => sg.ccs
  | .backlight => sg.bcs

/-- RS, RW and EN in one mask. -/
def lineMask (sg : SigMap) : Byte := sg.rs ||| sg.rw ||| sg.en

/-- The pieces of `p` between breaks, `cur` being the piece so far. -/
def linesFrom (cur : List Byte) : List Byte → List (List Byte)
  | [] => [cur]
  | b :: bs => if b = 0x0A#8 then cur :: linesFrom [] bs else linesFrom (cur ++ [b]) bs

/-- 42_text_and_memory.md R212: split at every 0x0A; empty pieces are kept. -/
def splitLines (p : List Byte) : List (List Byte) := linesFrom [] p

/-- The maximal runs of bytes other than 0x20, `cur` being the run so far. -/
def wordsFrom (cur : List Byte) : List Byte → List (List Byte)
  | [] => if cur = [] then [] else [cur]
  | b :: bs =>
    if b = 0x20#8 then (if cur = [] then wordsFrom [] bs else cur :: wordsFrom [] bs)
    else wordsFrom (cur ++ [b]) bs

/-- 42_text_and_memory.md R211: the words of a line, in order. -/
def splitWords (line : List Byte) : List (List Byte) := wordsFrom [] line

/-- The variables of `wrap`'s loop (R211). -/
structure WrapState where
  spans : List (List Byte)
  cur : List Byte
  width : Nat
  deriving DecidableEq, Repr

/-- R211, the inner loop for one word. `fuel` bounds its rounds; with `fuel = len(w) + 2` and widths of at least 1 it is
never used up (Laws: `placeWord_fuel_irrelevant`; log entry 18). -/
def placeWord (full : Nat) : Nat → List Byte → WrapState → WrapState
  | 0, w, st => { st with cur := w }
  | fuel + 1, w, st =>
    if st.cur = [] then
      if w.length ≤ st.width then { st with cur := w }
      else if full < w.length then
        placeWord full fuel (w.drop st.width) { spans := st.spans ++ [w.take st.width], cur := [], width := full }
      else placeWord full fuel w { spans := st.spans ++ [[]], cur := [], width := full }
    else if st.cur.length + 1 + w.length ≤ st.width then { st with cur := st.cur ++ (0x20#8 :: w) }
    else placeWord full fuel w { spans := st.spans ++ [st.cur], cur := [], width := full }

/-- R211, the loop over the words. -/
def placeWords (full : Nat) : List (List Byte) → WrapState → WrapState
  | [], st => st
  | w :: ws, st => placeWords full ws (placeWord full (w.length + 2) w st)

/-- R211: `wrap(line, W0, W)`. -/
def wrap (line : List Byte) (room full : Nat) : List (List Byte) :=
  let st := placeWords full (splitWords line) { spans := [], cur := [], width := room }
  if st.cur = [] then st.spans else st.spans ++ [st.cur]

end Sys2Proof.Machine
end

