-- ==== Sys2Proof/Machine/Ops.lean ====
section
/-! DEFINITION. The port primitives, the toggle engine, the busy poll and the sequencer (40_bus_primitives.md); errors
(60_exceptions.md R270 to R277); the transfers every request is built from; construction (70_reset_and_hazards.md R300). -/

namespace Sys2Proof.Machine

/-! ## Port primitives

A primitive answers `.ok` of the state after it, or `.error` of the state after a bus fault (R135). -/

/-- One transaction: event `e` if it succeeds, a marked `t` if it fails. Whether it fails is a draw (R135). -/
def transact (t : Tx) (e : Event) (s : State) : Except State State :=
  match s.faultIn with
  | none => .ok (s.emit e)
  | some 0 => .error (s.emit (.fails t))
  | some (n + 1) => .ok ((s.setFaultIn (some n)).emit e)

/-- R130: `PortDir(p, m)`. -/
def portDir (p : Port) (m : Byte) (s : State) : Except State State := transact (.dir p m) (.dir p m) s

/-- R131: `PortOut(p, v)`. -/
def portOut (p : Port) (v : Byte) (s : State) : Except State State :=
  match p with
  | .control => transact (.wc v) (.wc v) s
  | .data => transact (.wd v) (.wd v) s

/-- The next `PortIn(1)` answer: a draw (10_state.md R45; log entry 6). -/
def nextInput (s : State) : Byte :=
  match s.inputs with
  | v :: _ => v
  | [] => Config.portIn s.reads

/-- R133: `PortIn(1)`. On a fault it returns no value and no answer is used up. -/
def portIn (s : State) : Except State (Byte × State) :=
  match transact .rd (.rd (nextInput s)) s with
  | .error s' => .error s'
  | .ok s' => .ok (nextInput s, s'.takeInput)

/-- OR with `mask`, or AND with its complement: the update of R136 and R137. -/
def maskBits (mask : Byte) (on : Bool) (v : Byte) : Byte := if on then v ||| mask else v &&& ~~~mask

/-- R136: `setSignal(mask, enabled)`; the shadow is written before the port. -/
def setSignal (mask : Byte) (on : Bool) (s : State) : Except State State :=
  portOut .control (maskBits mask on s.shadow) (s.setShadow (maskBits mask on s.shadow))

/-- R137: `setDir(p, mask, input)`; the copy is written before the port. -/
def setDir (p : Port) (mask : Byte) (input : Bool) (s : State) : Except State State :=
  portDir p (maskBits mask input (s.dirOf p)) (s.setDirOf p (maskBits mask input (s.dirOf p)))

/-! ## Waiting -/

/-- How a step of the pseudocode ended without a fault: done, or held: the busy flag has been set in every answer known so
far, and `m` is what is left of the step (70_reset_and_hazards.md R314; log entry 5). -/
inductive Done where
  | done (s : State)
  | hold (m : Micro) (s : State)
  deriving DecidableEq, Repr

/-- One iteration of `busyPoll` up to its test (R139): seven transactions, and the byte sampled. -/
def pollOnce (s : State) : Except State (Byte × State) := do
  let s ← setSignal s.cfg.sig.rs false s
  let s ← setSignal s.cfg.sig.rw true s
  let s ← setDir .data 0xFF true s
  let s ← setSignal s.cfg.sig.en true s
  let (v, s) ← portIn s
  let s ← setSignal s.cfg.sig.en false s
  let s ← setDir .data 0xFF false s
  pure (v, s)

/-- R139's test after an iteration: return, raise at the deadline (R146), or go on by `again` with one more set BF counted. -/
def pollTest (n : Nat) (again : State → Except State Done) (v : Byte) (s : State) : Except State Done :=
  if busyFlag s.cfg v then
    if deadlineReached s.cfg (n + 1) then .error (s.emit .deadline) else again s
  else .ok (.done s)

/-- R139: `busyPoll()`, having read BF set `n` times. It goes on by itself through the answers the state lists (`fuel`
of them); past the list it makes one iteration, on a free value, and if BF is set there it holds (log entry 5). -/
def busyPoll : Nat → Nat → State → Except State Done
  | 0, n, s =>
    match pollOnce s with
    | .error s' => .error s'
    | .ok (v, s') => pollTest n (fun t => .ok (.hold (.poll (n + 1)) t)) v s'
  | fuel + 1, n, s =>
    match pollOnce s with
    | .error s' => .error s'
    | .ok (v, s') => pollTest n (busyPoll fuel (n + 1)) v s'

/-- R138: `waitReady()`; in TimedDelay mode it issues nothing. -/
def waitReady (s : State) : Except State Done :=
  match s.waitMode with
  | .timedDelay => .ok (.done s)
  | .busyPoll => busyPoll s.inputs.length 0 s

/-! ## Errors -/

/-- R270: `raise E`: the request ends with `(S(E), [])`; nothing is rolled back. Nothing returns from it (R279). -/
def raise (e : Status) (s : State) : State := s.answer { status := e, data := [] }

/-- R274: a bus fault sets the sticky flag and answers BusFault. -/
def onBusFault (s : State) : State := raise .busFault s.setFaulted

/-- A request that admission or its first step refuses: an empty trace and an error (R272, R275, R277). -/
def refuse (e : Status) (s : State) : State := raise e s.begin

/-! ## The sequencer -/

/-- A step that cannot hold. -/
def plain (r : Except State State) : Except State Done :=
  match r with
  | .error s => .error s
  | .ok s => .ok (.done s)

/-- One step of a request's pseudocode. -/
def perform (m : Micro) (s : State) : Except State Done :=
  match m with
  | .signal mask on => plain (setSignal mask on s)
  | .dir p mask input => plain (setDir p mask input s)
  | .dataOut b => plain (portOut .data b s)
  | .sample =>
    match portIn s with
    | .error s' => .error s'
    | .ok (v, s') => .ok (.done (s'.pushOut v))
  | .wait => waitReady s
  | .poll n => busyPoll s.inputs.length n s
  | .delay t => .ok (.done (s.emit (.dly t)))
  | .record op v => .ok (.done (s.record op v))
  | .cursor c r => .ok (.done (s.setCursor c r))
  | .pos k p => .ok (.done (s.setPosOf k p))
  | .mode w => .ok (.done (s.setMode w))
  | .ctrl c => .ok (.done (s.setCtrl c))
  | .powered b => .ok (.done (s.setPowered b))
  | .close => .ok (.done s.setClosed)
  | .respond => .ok (.done (s.answer { status := .ok, data := s.out }))

/-- 10_state.md R21: run a request's steps in order, to its end, to a bus fault, or to a busy poll that holds. -/
def run : List Micro → State → State
  | [], s => s
  | m :: ms, s =>
    match perform m s with
    | .error s' => onBusFault s'
    | .ok (.done s') => run ms s'
    | .ok (.hold m' s') => s'.setSeq (m' :: ms)

/-- Go on with a request that was held. -/
def resume (m : Micro) (ms : List Micro) (s : State) : State := run (m :: ms) (s.setSeq [])

/-- R277: the state checks, then the request's own rule, whose range check is its first step (R275). `prog` gives the
steps of the rule, or the error of that check. -/
def serve (needReady : Bool) (prog : Geometry → Except Status (List Micro)) (s : State) : State :=
  match s.geom with
  | none => refuse .configurationError s
  | some g =>
    match admission needReady s with
    | some e => refuse e s
    | none =>
      match prog g with
      | .error e => refuse e s
      | .ok ms => run ms s.begin

/-! ## Transfers (40_bus_primitives.md section 4) -/

/-- R140, steps 2 and 3: the instruction-write cycle for the byte `b`. -/
def instructionCycle (sg : SigMap) (b : Byte) : List Micro :=
  [.signal (sg.rs ||| sg.rw) false, .signal sg.en true, .dataOut b, .signal (lineMask sg) false]

/-- R140: `command(op, value)`. -/
def command (sg : SigMap) (op : LcdOp) (value : Byte) : List Micro :=
  .wait :: (instructionCycle sg (lcdOpcode op ||| value) ++ [.record op value])

/-- R141: `writeByte(b)`. No request calls it. -/
def writeByte (sg : SigMap) (b : Byte) : List Micro :=
  [.wait, .signal sg.rw false, .signal sg.rs true, .signal sg.en true, .dataOut b, .signal (lineMask sg) false]

/-- One byte of a data block: its own EN pulse (R142). -/
def blockByte (sg : SigMap) (b : Byte) : List Micro := [.signal sg.en true, .dataOut b, .signal sg.en false]

/-- R142 after its wait: the data-write cycles of a block. -/
def writeCycles (sg : SigMap) (bs : List Byte) : List Micro :=
  [.signal sg.rw false, .signal sg.rs true] ++ bs.flatMap (blockByte sg) ++ [.signal (lineMask sg) false]

/-- R142: `writeBlock(bs)`; an empty list issues nothing. -/
def writeBlock (sg : SigMap) (bs : List Byte) : List Micro :=
  match bs with
  | [] => []
  | _ :: _ => .wait :: writeCycles sg bs

/-- One byte of a read block (R143). -/
def readByte (sg : SigMap) : List Micro := [.signal sg.en true, .sample, .signal sg.en false]

/-- R143 after its wait: the data-read cycles of `n` bytes. -/
def readCycles (sg : SigMap) (n : Nat) : List Micro :=
  [.signal sg.rs true, .signal sg.rw true, .dir .data 0xFF true] ++ (List.replicate n (readByte sg)).flatten
    ++ [.dir .data 0xFF false, .signal (lineMask sg) false]

/-- R143: `readBlock(n)`. -/
def readBlock (sg : SigMap) (n : Nat) : List Micro :=
  match n with
  | 0 => []
  | k + 1 => .wait :: readCycles sg (k + 1)

/-- R139: the transactions of one busy-flag read, with the byte kept. -/
def busyCycle (sg : SigMap) : List Micro :=
  [.signal sg.rs false, .signal sg.rw true, .dir .data 0xFF true, .signal sg.en true, .sample, .signal sg.en false,
    .dir .data 0xFF false]

/-! ## Construction -/

/-- 70_reset_and_hazards.md R300: `construct(declCols, declRows)` with parameters `p`. `latch` is what the read of the
control latch answers, a draw, or `none` if it faults. -/
def construct (p : Params) (declCols declRows : Nat) (latch : Option Byte) : State :=
  let fresh : State := { State.reset with cfg := p }
  match geometryOf p declCols declRows with
  | none => { fresh with geom := none, trace := [] }
  | some g =>
    match latch with
    | some v => { fresh with geom := some g, shadow := v, trace := [.rc v] }
    | none => { fresh with geom := some g, shadow := Config.latchUnknown, faulted := true, trace := [.fails .rc] }

end Sys2Proof.Machine
end

