-- ==== Sys2Proof/Machine/Bus.lean ====
section
/-! DEFINITION. The four HD44780 bus cycles (30_encoding.md R101), each one EN pulse with the setup its transfer gives it
and no wait. DESIGN CHOICE (log entries 9, 10): the host cannot issue one; a cycle is run under the state checks every
request passes, the busy read under the Ready check too, and what a read cycle samples is its response. -/

namespace Sys2Proof.Machine

/-- A bus cycle run alone; `needReady` is true for one that only a Ready block may make. -/
def busCycle (needReady : Bool) (ms : List Micro) (s : State) : State := serve needReady (fun _ => .ok (ms ++ [.respond])) s

/-- RS=0, RW=0: the cycle of `command` (40_bus_primitives.md R140, step 3). -/
def execBusInstructionWrite (data : Byte) (s : State) : Host.Outcome State Fault Refusal :=
  .next (busCycle false (instructionCycle s.cfg.sig data) s)

/-- RS=0, RW=1: one iteration of `busyPoll` (R139). RW is left at 1. "The busy flag is not polled before initialisation
completes" (70_reset_and_hazards.md R310; 93_implementation_defined.md I1), so it is refused in a block that is not Ready. -/
def execBusBusyRead (s : State) : Host.Outcome State Fault Refusal := .next (busCycle true (busyCycle s.cfg.sig) s)

/-- RS=1, RW=0: the cycle of a one-byte `writeBlock` (R142). -/
def execBusDataWrite (data : Byte) (s : State) : Host.Outcome State Fault Refusal :=
  .next (busCycle false (writeCycles s.cfg.sig [data]) s)

/-- RS=1, RW=1: the cycle of a one-byte `readBlock` (R143). -/
def execBusDataRead (s : State) : Host.Outcome State Fault Refusal := .next (busCycle false (readCycles s.cfg.sig 1) s)

end Sys2Proof.Machine
end

