-- ==== Sys2Proof/Machine/Lcd.lean ====
section
/-! DEFINITION. The eight HD44780 instructions as the block sends them (40_bus_primitives.md R140): each is
`command(op, value)` run alone. DESIGN CHOICE (log entries 8, 10): the host cannot issue one; the sequencer's operation
is run under the state checks every request passes, in every `st.ctrl`. -/

namespace Sys2Proof.Machine

/-- `command(op, value)` run alone (R140). -/
def sendCommand (op : LcdOp) (value : Byte) (s : State) : State :=
  serve false (fun _ => .ok (command s.cfg.sig op value ++ [.respond])) s

/-- HD44780 CLEAR (R100). -/
def execHdClear (s : State) : Host.Outcome State Fault Refusal := .next (sendCommand .clear 0x00 s)

/-- HD44780 HOME (R100). -/
def execHdHome (s : State) : Host.Outcome State Fault Refusal := .next (sendCommand .home 0x00 s)

/-- HD44780 ENTRY_MODE (R100). -/
def execHdEntryMode (id sh : Bool) (s : State) : Host.Outcome State Fault Refusal :=
  .next (sendCommand .entryMode (entryModeValue id sh) s)

/-- HD44780 DISPLAY_CTRL (R100). -/
def execHdDisplayCtrl (d c b : Bool) (s : State) : Host.Outcome State Fault Refusal :=
  .next (sendCommand .displayCtrl (displayCtrlValue d c b) s)

/-- HD44780 SHIFT (R100, R104). -/
def execHdShift (sc rl : Bool) (s : State) : Host.Outcome State Fault Refusal :=
  .next (sendCommand .shift (shiftValue sc rl) s)

/-- HD44780 FUNCTION_SET (R100). -/
def execHdFunctionSet (dl n f : Bool) (s : State) : Host.Outcome State Fault Refusal :=
  .next (sendCommand .functionSet (functionSetValue dl n f) s)

/-- HD44780 SET_CGRAM_ADDRESS (R100). -/
def execHdSetCgramAddress (addr : BitVec 6) (s : State) : Host.Outcome State Fault Refusal :=
  .next (sendCommand .setCgramAddress (addr.setWidth 8) s)

/-- HD44780 SET_DDRAM_ADDRESS (R100). -/
def execHdSetDdramAddress (addr : BitVec 7) (s : State) : Host.Outcome State Fault Refusal :=
  .next (sendCommand .setDdramAddress (addr.setWidth 8) s)

end Sys2Proof.Machine
end

