-- ==== Sys2Proof/Machine/Pots.lean ====
section
/-! DEFINITION. The potentiometer pulse sequencer and its requests (43_potentiometer.md). -/

namespace Sys2Proof.Machine

/-- R241: the single-step pulse, with UD taken to `up` first (R242, R243). -/
def stepPulse (sg : SigMap) (k : Pot) (up : Bool) : List Micro :=
  [.signal sg.ud up, .signal (selectMask sg k) false, .signal (selectMask sg k) true]

/-- R242: `inc(k)` from the tracked position `p`. -/
def inc (sg : SigMap) (k : Pot) (p : Nat) : List Micro :=
  stepPulse sg k true ++ [.pos k (min (p + 1) Config.wiperMax)]

/-- R243: `dec(k)` from the tracked position `p`: `max(p - 1, 0)`, which is truncated subtraction. -/
def dec (sg : SigMap) (k : Pot) (p : Nat) : List Micro := stepPulse sg k false ++ [.pos k (p - 1)]

/-- R241: one burst pulse, on UD, away from the direction and back. -/
def burstPulse (sg : SigMap) (d : Bool) : List Micro := [.signal sg.ud (!d), .signal sg.ud d]

/-- R244: `burst(k, d, n)`. -/
def burst (sg : SigMap) (k : Pot) (d : Bool) (n : Nat) : List Micro :=
  [.signal sg.ud d, .signal (selectMask sg k) false] ++ (List.replicate n (burstPulse sg d)).flatten
    ++ [.signal (selectMask sg k) true]

/-- R245: `set(k, target)` from the tracked position `p`. -/
def setWiper (sg : SigMap) (k : Pot) (p target : Nat) : List Micro :=
  let t := clampWiper target
  let diff : Int := (t : Int) - (p : Int)
  if diff = 0 then [] else burst sg k (decide (0 < diff)) diff.natAbs ++ [.pos k t]

/-- R246: `potPowerOn(k)` from the tracked position `p`. -/
def potPowerOn (sg : SigMap) (k : Pot) (p : Nat) : List Micro :=
  [.dir .control (selectMask sg k ||| sg.ud) false, .signal (selectMask sg k) true] ++ setWiper sg k p 0

/-- R247: `potPowerOff(k)`. -/
def potPowerOff (sg : SigMap) (k : Pot) : List Micro := [.dir .control (selectMask sg k ||| sg.ud) true]

/-- A potentiometer request: its operation, then the response. -/
def potRequest (ms : List Micro) (s : State) : State := serve true (fun _ => .ok (ms ++ [.respond])) s

/-- SET_CONTRAST (R248). -/
def execSetContrast (level : Byte) (s : State) : Host.Outcome State Fault Refusal :=
  .next (potRequest (setWiper s.cfg.sig .contrast s.contrast level.toNat) s)

/-- SET_BACKLIGHT (R249). -/
def execSetBacklight (level : Byte) (s : State) : Host.Outcome State Fault Refusal :=
  .next (potRequest (setWiper s.cfg.sig .backlight s.backlight level.toNat) s)

/-- CONTRAST_INC (R250). -/
def execContrastInc (s : State) : Host.Outcome State Fault Refusal :=
  .next (potRequest (inc s.cfg.sig .contrast s.contrast) s)

/-- CONTRAST_DEC (R251). -/
def execContrastDec (s : State) : Host.Outcome State Fault Refusal :=
  .next (potRequest (dec s.cfg.sig .contrast s.contrast) s)

/-- BACKLIGHT_INC (R250). -/
def execBacklightInc (s : State) : Host.Outcome State Fault Refusal :=
  .next (potRequest (inc s.cfg.sig .backlight s.backlight) s)

/-- BACKLIGHT_DEC (R251). -/
def execBacklightDec (s : State) : Host.Outcome State Fault Refusal :=
  .next (potRequest (dec s.cfg.sig .backlight s.backlight) s)

end Sys2Proof.Machine
end

