-- ==== Sys2Proof/Machine/Power.lean ====
section
/-! DEFINITION. Power and lifecycle requests (41_lcd_control.md R170 to R175). -/

namespace Sys2Proof.Machine

/-- R171: `lcdPortsOut()`. -/
def lcdPortsOut (sg : SigMap) : List Micro :=
  [.dir .control (lineMask sg ||| sg.pwr) false, .dir .data 0xFF false]

/-- An init command and the delay after it (R172). -/
def initCommand (sg : SigMap) (op : LcdOp) (value : Byte) (t : TimeParam) : List Micro := command sg op value ++ [.delay t]

/-- R172: `init()`. -/
def initProtocol (p : Params) (g : Geometry) : List Micro :=
  [.ctrl .initializing, .mode .timedDelay]
    ++ initCommand p.sig .functionSet (fsValue p g) .fs1
    ++ initCommand p.sig .functionSet (fsValue p g) .fs2
    ++ initCommand p.sig .functionSet (fsValue p g) .fs3
    ++ initCommand p.sig .displayCtrl 0x00 (.exec .displayCtrl)
    ++ initCommand p.sig .clear 0x00 (.exec .clear)
    ++ initCommand p.sig .entryMode 0x02 (.exec .entryMode)
    ++ initCommand p.sig .displayCtrl 0x04 (.exec .displayCtrl)
    ++ [.cursor 0 0, .mode .busyPoll, .ctrl .ready]

/-- R173: the steps of POWER_ON. -/
def powerOnSteps (s : State) (g : Geometry) : List Micro :=
  lcdPortsOut s.cfg.sig
    ++ potPowerOn s.cfg.sig .contrast s.contrast
    ++ potPowerOn s.cfg.sig .backlight s.backlight
    ++ [.signal s.cfg.sig.pwr true, .powered true]
    ++ initProtocol s.cfg g
    ++ [.respond]

/-- R174: the body of POWER_OFF. -/
def powerOffBody (sg : SigMap) : List Micro :=
  potPowerOff sg .contrast ++ potPowerOff sg .backlight
    ++ [.signal sg.pwr false, .powered false, .ctrl .uninitialized, .mode .timedDelay]

/-- R175: the steps of CLOSE. -/
def closeSteps (sg : SigMap) : List Micro :=
  powerOffBody sg ++ [.dir .control 0xFF true, .dir .data 0xFF true, .close, .respond]

/-- POWER_ON (R173). -/
def execPowerOn (s : State) : Host.Outcome State Fault Refusal :=
  .next (serve false (fun g => .ok (powerOnSteps s g)) s)

/-- POWER_OFF (R174). -/
def execPowerOff (s : State) : Host.Outcome State Fault Refusal :=
  .next (serve false (fun _ => .ok (powerOffBody s.cfg.sig ++ [.respond])) s)

/-- CLOSE (R175). -/
def execClose (s : State) : Host.Outcome State Fault Refusal :=
  .next (serve false (fun _ => .ok (closeSteps s.cfg.sig)) s)

end Sys2Proof.Machine
end

