-- ==== Sys2Proof/Machine/Commands.lean ====
section
/-! DEFINITION. The requests that send only commands (41_lcd_control.md R176 to R183). -/

namespace Sys2Proof.Machine

/-- R183: `restoreCursor()`. -/
def restoreCursor (s : State) (g : Geometry) : List Micro :=
  command s.cfg.sig .setDdramAddress (ddram g s.col s.row)

/-- R176, R177: a command that homes the tracked cursor. -/
def homingSteps (sg : SigMap) (op : LcdOp) : List Micro := command sg op 0x00 ++ [.cursor 0 0, .respond]

/-- R178: the steps of SET_CURSOR; both arguments wrap. -/
def setCursorSteps (sg : SigMap) (g : Geometry) (a0 a1 : Byte) : List Micro :=
  command sg .setDdramAddress (ddram g (a0.toNat % g.cols) (a1.toNat % g.rows))
    ++ [.cursor (a0.toNat % g.cols) (a1.toNat % g.rows), .respond]

/-- R179: `toggleDisplay(bit, on)`, then the response. -/
def toggleSteps (s : State) (bit : Byte) (on : Bool) : List Micro :=
  command s.cfg.sig .displayCtrl (toggled bit on s.cs.displayCtrl) ++ [.respond]

/-- CLEAR (R176). -/
def execClear (s : State) : Host.Outcome State Fault Refusal :=
  .next (serve true (fun _ => .ok (homingSteps s.cfg.sig .clear)) s)

/-- HOME (R177). -/
def execHome (s : State) : Host.Outcome State Fault Refusal :=
  .next (serve true (fun _ => .ok (homingSteps s.cfg.sig .home)) s)

/-- SET_CURSOR (R178). -/
def execSetCursor (col row : Byte) (s : State) : Host.Outcome State Fault Refusal :=
  .next (serve true (fun g => .ok (setCursorSteps s.cfg.sig g col row)) s)

/-- SET_BLINK (R180): bit B. -/
def execSetBlink (on : Bool) (s : State) : Host.Outcome State Fault Refusal :=
  .next (serve true (fun _ => .ok (toggleSteps s 0x01 on)) s)

/-- SET_CURSOR_VISIBLE (R181): bit C. -/
def execSetCursorVisible (on : Bool) (s : State) : Host.Outcome State Fault Refusal :=
  .next (serve true (fun _ => .ok (toggleSteps s 0x02 on)) s)

/-- SET_DISPLAY_VISIBLE (R182): bit D. -/
def execSetDisplayVisible (on : Bool) (s : State) : Host.Outcome State Fault Refusal :=
  .next (serve true (fun _ => .ok (toggleSteps s 0x04 on)) s)

end Sys2Proof.Machine
end

