-- ==== Sys2Proof/Machine/Text.lean ====
section
/-! DEFINITION. Text layout, glyph definition and row read-back (42_text_and_memory.md). -/

namespace Sys2Proof.Machine

/-- What PRINT sends, one HD44780 transfer at a time. -/
inductive Transfer where
  /-- `command(SET_DDRAM_ADDRESS, base[r] + c)`. -/
  | address (c r : Nat)
  /-- `writeBlock(bs)`. -/
  | block (bs : List Byte)
  deriving DecidableEq, Repr

/-- A part of PRINT's transfers and the running cursor after it. -/
structure Layout where
  transfers : List Transfer
  col : Nat
  row : Nat
  deriving DecidableEq, Repr

/-- R210, the loop over one line's spans from the cursor (c, r); `first` is true for span 0. -/
def layoutSpans (g : Geometry) (first : Bool) : List (List Byte) → Nat → Nat → Layout
  | [], c, r => { transfers := [], col := c, row := r }
  | sp :: rest, c, r =>
    let advance := !first && decide (c ≠ 0)
    let c1 := if advance then 0 else c
    let r1 := if advance then nextRow g r else r
    let moved := if advance then [Transfer.address 0 r1] else []
    let full := decide (g.cols ≤ c1 + sp.length)
    let c2 := if full then 0 else c1 + sp.length
    let r2 := if full then nextRow g r1 else r1
    let wrapped := if full then [Transfer.address 0 r2] else []
    let tail := layoutSpans g false rest c2 r2
    { tail with transfers := moved ++ Transfer.block sp :: (wrapped ++ tail.transfers) }

/-- R210, the loop over the lines from the cursor (c, r); `first` is true for line 0. -/
def layoutLines (g : Geometry) (first : Bool) : List (List Byte) → Nat → Nat → Layout
  | [], c, r => { transfers := [], col := c, row := r }
  | line :: rest, c, r =>
    let c1 := if first then c else 0
    let r1 := if first then r else nextRow g r
    let body := layoutSpans g true (wrap line (g.cols - c1) g.cols) c1 r1
    let tail := layoutLines g false rest body.col body.row
    { tail with transfers := Transfer.address c1 r1 :: (body.transfers ++ tail.transfers) }

/-- R210: the whole layout of a text from the cursor (c, r). -/
def layoutText (g : Geometry) (text : List Byte) (c r : Nat) : Layout := layoutLines g true (splitLines text) c r

/-- `command(SET_DDRAM_ADDRESS, base[r] + c)`. -/
def addressStep (sg : SigMap) (g : Geometry) (c r : Nat) : List Micro := command sg .setDdramAddress (ddram g c r)

/-- The steps of one transfer. -/
def transferSteps (sg : SigMap) (g : Geometry) : Transfer → List Micro
  | .address c r => addressStep sg g c r
  | .block bs => writeBlock sg bs

/-- R210: the steps of PRINT; the cursor is persisted only at the end. -/
def printSteps (s : State) (g : Geometry) (text : List Byte) : List Micro :=
  let l := layoutText g text s.col s.row
  l.transfers.flatMap (transferSteps s.cfg.sig g) ++ [.cursor l.col l.row, .respond]

/-- R215: the steps of DEFINE_GLYPH, or RangeError. -/
def glyphSteps (s : State) (index : Byte) (bitmap : List Byte) (g : Geometry) : Except Status (List Micro) :=
  if Config.glyphs ≤ index.toNat then .error .rangeError
  else
    .ok
      (command s.cfg.sig .setCgramAddress (glyphAddress index) ++ writeBlock s.cfg.sig bitmap ++ restoreCursor s g
        ++ [.respond])

/-- R216: the steps of READ_ROW, or RangeError. -/
def readRowSteps (s : State) (row : Byte) (g : Geometry) : Except Status (List Micro) :=
  if g.rows ≤ row.toNat then .error .rangeError
  else
    .ok
      (addressStep s.cfg.sig g 0 row.toNat ++ readBlock s.cfg.sig g.cols ++ restoreCursor s g ++ [.respond])

/-- PRINT (R210). -/
def execPrint (text : List Byte) (s : State) : Host.Outcome State Fault Refusal :=
  .next (serve true (fun g => .ok (printSteps s g text)) s)

/-- DEFINE_GLYPH (R215). -/
def execDefineGlyph (index : Byte) (bitmap : List Byte) (s : State) : Host.Outcome State Fault Refusal :=
  .next (serve true (glyphSteps s index bitmap) s)

/-- READ_ROW (R216). -/
def execReadRow (row : Byte) (s : State) : Host.Outcome State Fault Refusal :=
  .next (serve true (readRowSteps s row) s)

end Sys2Proof.Machine
end

