-- ==== Sys2Proof/Machine/Dispatch.lean ====
section
/-! DEFINITION. One arm per instruction, each a direct call of its meaning. -/

namespace Sys2Proof.Machine

open Sys2Proof

/-- The meaning of an instruction. -/
def exec (i : Instr) (s : State) : Host.Outcome State Fault Refusal :=
  match i with
  | .powerOn => Sys2Proof.Machine.execPowerOn s
  | .powerOff => Sys2Proof.Machine.execPowerOff s
  | .clear => Sys2Proof.Machine.execClear s
  | .home => Sys2Proof.Machine.execHome s
  | .setCursor col row => Sys2Proof.Machine.execSetCursor col row s
  | .print text => Sys2Proof.Machine.execPrint text s
  | .defineGlyph index bitmap => Sys2Proof.Machine.execDefineGlyph index bitmap s
  | .setContrast level => Sys2Proof.Machine.execSetContrast level s
  | .setBacklight level => Sys2Proof.Machine.execSetBacklight level s
  | .setBlink on => Sys2Proof.Machine.execSetBlink on s
  | .setCursorVisible on => Sys2Proof.Machine.execSetCursorVisible on s
  | .setDisplayVisible on => Sys2Proof.Machine.execSetDisplayVisible on s
  | .readRow row => Sys2Proof.Machine.execReadRow row s
  | .close => Sys2Proof.Machine.execClose s
  | .contrastInc => Sys2Proof.Machine.execContrastInc s
  | .contrastDec => Sys2Proof.Machine.execContrastDec s
  | .backlightInc => Sys2Proof.Machine.execBacklightInc s
  | .backlightDec => Sys2Proof.Machine.execBacklightDec s
  | .hdClear => Sys2Proof.Machine.execHdClear s
  | .hdHome => Sys2Proof.Machine.execHdHome s
  | .hdEntryMode id sh => Sys2Proof.Machine.execHdEntryMode id sh s
  | .hdDisplayCtrl d c b => Sys2Proof.Machine.execHdDisplayCtrl d c b s
  | .hdShift sc rl => Sys2Proof.Machine.execHdShift sc rl s
  | .hdFunctionSet dl n f => Sys2Proof.Machine.execHdFunctionSet dl n f s
  | .hdSetCgramAddress addr => Sys2Proof.Machine.execHdSetCgramAddress addr s
  | .hdSetDdramAddress addr => Sys2Proof.Machine.execHdSetDdramAddress addr s
  | .busInstructionWrite data => Sys2Proof.Machine.execBusInstructionWrite data s
  | .busBusyRead => Sys2Proof.Machine.execBusBusyRead s
  | .busDataWrite data => Sys2Proof.Machine.execBusDataWrite data s
  | .busDataRead => Sys2Proof.Machine.execBusDataRead s

end Sys2Proof.Machine
end

