-- ==== Sys2Proof/Machine/Fetch.lean ====
section
/-! DEFINITION. What the sequencer runs next (30_encoding.md R90): the head of the request port's queue, and what becomes
of a coded form that decode refuses (60_exceptions.md R276, R277). -/

namespace Sys2Proof.Machine

/-- The next coded form and the state once the port has given it; `none`: nothing waits. -/
def fetch (s : State) : Option (Code × State) :=
  match s.queue with
  | [] => none
  | c :: q => some (c, s.setQueue q)

/-- R276: a request that decode refuses answers IllegalRequest in every state of the block. An internal form that encodes
nothing stops the machine. -/
def reject (e : DecodeError) (s : State) : Host.Outcome State Fault Refusal :=
  match e with
  | .reservedField => .next (refuse .illegalRequest s)
  | .unknownOp => .next (refuse .illegalRequest s)
  | .payloadNotEmpty => .next (refuse .illegalRequest s)
  | .glyphLength => .next (refuse .illegalRequest s)
  | .noLcdInstruction => .fault .noLcdInstruction
  | .noBusCycle => .fault .noBusCycle

/-- The state with a table word as the next thing the idle sequencer is given (log entry 1). A word that is no coded form
leaves nothing waiting. -/
def placeTableWord (s : State) (nbits w : Nat) : State :=
  (s.setSeq []).setQueue (tableCode nbits w).toList

end Sys2Proof.Machine
end

