-- ==== Sys2Proof/Machine/Step.lean ====
section
/-! DEFINITION. One step of the block: go on with a held request, or take the next one and run it (00_scope.md R3). -/

namespace Sys2Proof.Machine

/-- A held request goes on; else the next coded form is taken, decoded and run (60_exceptions.md R277); with nothing
waiting the block is idle (70_reset_and_hazards.md R302). -/
def step (s : State) : Host.Outcome State Fault Refusal :=
  match s.seq with
  | m :: ms => .next (resume m ms s)
  | [] =>
    match fetch s with
    | none => .next s
    | some (c, t) =>
      match decode t.cfg.sig c with
      | .error e => reject e t
      | .ok i => exec i t

/-- `s` with a table word as what the next step takes. -/
def State.withFetchWord (s : State) (nbits w : Nat) : State := placeTableWord s nbits w

end Sys2Proof.Machine
end

