-- ==== Sys2Proof/Safety.lean ====
section
/-! DEFINITION. The terms claims are stated in: lawful parameters, the invariant of 10_state.md R40, what the environment is
assumed to answer, and the traces of 95_test_vectors.md section 0, written without the machine's own steps. -/

namespace Sys2Proof

/-! ## Lawful parameters (00_scope.md R7) -/

/-- A mask with exactly one bit. -/
def oneBit (m : Byte) : Bool := decide (m ∈ [0x01#8, 0x02#8, 0x04#8, 0x08#8, 0x10#8, 0x20#8, 0x40#8, 0x80#8])

/-- The eight masks of a wiring. -/
def SigMap.masks (sg : SigMap) : List Byte := [sg.rs, sg.rw, sg.en, sg.irs, sg.ccs, sg.bcs, sg.ud, sg.pwr]

/-- R7: "eight distinct one-bit masks covering bits 7..0". -/
def SigMap.wf (sg : SigMap) : Bool := sg.masks.all oneBit && decide sg.masks.Nodup

/-- A row-base list is lawful for a geometry of `cols` by `rows`: "`len = rows` and `base[r] + cols ≤ 0x80`"
(92_eei_decisions.md D8). -/
def basesWf (bases : List (BitVec 7)) (cols rows : Nat) : Bool :=
  bases.length == rows && bases.all (fun b => decide (b.toNat + cols ≤ 0x80))

/-- A lawful `ADDR_TABLE` (R7, 20_memory.md R63). -/
def AddrTable.wf (t : AddrTable) : Bool :=
  basesWf t.g16x1 8 2 && basesWf t.g16x2 16 2 && basesWf t.g16x4 16 4 && basesWf t.g20x2 20 2 && basesWf t.g20x4 20 4
    && basesWf t.g40x2 40 2 && basesWf t.g40x4 40 4

/-- The legal values of R7. -/
def Params.wf (p : Params) : Bool :=
  p.sig.wf && p.addrTable.wf && oneBit p.bfMask && decide (4100 ≤ p.tFs1) && decide (100 ≤ p.tFs2) && decide (0 < p.tFs3)
    && [LcdOp.clear, .home, .entryMode, .displayCtrl, .shift, .functionSet, .setCgramAddress, .setDdramAddress].all
        (fun op => decide (0 < p.tExec.get op))
    && decide (p.pollDeadline ≠ some 0)

/-! ## Classes of instructions -/

/-- The 18 requests (30_encoding.md R92). -/
def Instr.isRequest : Instr → Bool
  | .hdClear => false
  | .hdHome => false
  | .hdEntryMode _ _ => false
  | .hdDisplayCtrl _ _ _ => false
  | .hdShift _ _ => false
  | .hdFunctionSet _ _ _ => false
  | .hdSetCgramAddress _ => false
  | .hdSetDdramAddress _ => false
  | .busInstructionWrite _ => false
  | .busBusyRead => false
  | .busDataWrite _ => false
  | .busDataRead => false
  | .powerOn => true
  | .powerOff => true
  | .clear => true
  | .home => true
  | .setCursor _ _ => true
  | .print _ => true
  | .defineGlyph _ _ => true
  | .setContrast _ => true
  | .setBacklight _ => true
  | .setBlink _ => true
  | .setCursorVisible _ => true
  | .setDisplayVisible _ => true
  | .readRow _ => true
  | .close => true
  | .contrastInc => true
  | .contrastDec => true
  | .backlightInc => true
  | .backlightDec => true

/-- 60_exceptions.md R277: the requests admitted in every `st.ctrl`. -/
def Instr.lifecycle : Instr → Bool
  | .powerOn => true
  | .powerOff => true
  | .close => true
  | _ => false

/-- An HD44780 instruction as an opcode and a value (30_encoding.md R100, 10_state.md R28). -/
def Instr.lcdOperands : Instr → Option (LcdOp × Byte)
  | .hdClear => some (.clear, 0x00)
  | .hdHome => some (.home, 0x00)
  | .hdEntryMode id sh => some (.entryMode, (if id then 0x02 else 0) + (if sh then 0x01 else 0))
  | .hdDisplayCtrl d c b =>
    some (.displayCtrl, (if d then 0x04 else 0) + (if c then 0x02 else 0) + (if b then 0x01 else 0))
  | .hdShift sc rl => some (.shift, (if sc then 0x08 else 0) + (if rl then 0x04 else 0))
  | .hdFunctionSet dl n f =>
    some (.functionSet, (if dl then 0x10 else 0) + (if n then 0x08 else 0) + (if f then 0x04 else 0))
  | .hdSetCgramAddress addr => some (.setCgramAddress, BitVec.ofNat 8 addr.toNat)
  | .hdSetDdramAddress addr => some (.setDdramAddress, BitVec.ofNat 8 addr.toNat)
  | _ => none

/-- The operation codes of 30_encoding.md R92. -/
def requestOps : List Byte :=
  [0x01, 0x02, 0x03, 0x04, 0x05, 0x06, 0x07, 0x08, 0x09, 0x0A, 0x0B, 0x0C, 0x0D, 0x0E, 0x10, 0x11, 0x12, 0x13]

/-- The commandShadow slots an instruction may write (10_state.md R39, column cs; 40_bus_primitives.md R140). -/
def Instr.slots : Instr → List LcdOp
  | .powerOn => [.functionSet, .displayCtrl, .clear, .entryMode]
  | .clear => [.clear]
  | .home => [.home]
  | .setCursor _ _ => [.setDdramAddress]
  | .print _ => [.setDdramAddress]
  | .defineGlyph _ _ => [.setCgramAddress, .setDdramAddress]
  | .setBlink _ => [.displayCtrl]
  | .setCursorVisible _ => [.displayCtrl]
  | .setDisplayVisible _ => [.displayCtrl]
  | .readRow _ => [.setDdramAddress]
  | .hdClear => [.clear]
  | .hdHome => [.home]
  | .hdEntryMode _ _ => [.entryMode]
  | .hdDisplayCtrl _ _ _ => [.displayCtrl]
  | .hdShift _ _ => [.shift]
  | .hdFunctionSet _ _ _ => [.functionSet]
  | .hdSetCgramAddress _ => [.setCgramAddress]
  | .hdSetDdramAddress _ => [.setDdramAddress]
  | _ => []

/-- The requests that write the tracked cursor (R39, column col,row). -/
def Instr.movesCursor : Instr → Bool
  | .powerOn => true
  | .clear => true
  | .home => true
  | .setCursor _ _ => true
  | .print _ => true
  | _ => false

/-- The instructions that begin with a poll in BusyPoll mode: the requests that send a transfer, with arguments R275 admits
(70_reset_and_hazards.md R312, R318), and the HD44780 instructions (40_bus_primitives.md R140). -/
def Instr.pollsFirst (i : Instr) (rows : Nat) : Prop :=
  i ∈ [.clear, .home] ∨ (∃ c r, i = .setCursor c r) ∨ (∃ p, i = .print p)
    ∨ (∃ x bitmap, i = .defineGlyph x bitmap ∧ x.toNat ≤ 7) ∨ (∃ r, i = .readRow r ∧ r.toNat < rows)
    ∨ (∃ b, i ∈ [.setBlink b, .setCursorVisible b, .setDisplayVisible b]) ∨ i.lcdOperands ≠ none

end Sys2Proof

namespace Sys2Proof.Machine

/-- The potentiometers whose tracked position an instruction may write (10_state.md R39, column pot pos). -/
def wipers : Instr → List Pot
  | .powerOn => [.contrast, .backlight]
  | .setContrast _ => [.contrast]
  | .contrastInc => [.contrast]
  | .contrastDec => [.contrast]
  | .setBacklight _ => [.backlight]
  | .backlightInc => [.backlight]
  | .backlightDec => [.backlight]
  | _ => []

/-- The control-bus signals an instruction may change (10_state.md R24, column "written by"). -/
def signals (sg : SigMap) : Instr → Byte
  | .powerOn => lineMask sg ||| sg.ccs ||| sg.bcs ||| sg.ud ||| sg.pwr
  | .powerOff => sg.pwr
  | .close => sg.pwr
  | .setContrast _ => sg.ccs ||| sg.ud
  | .contrastInc => sg.ccs ||| sg.ud
  | .contrastDec => sg.ccs ||| sg.ud
  | .setBacklight _ => sg.bcs ||| sg.ud
  | .backlightInc => sg.bcs ||| sg.ud
  | .backlightDec => sg.bcs ||| sg.ud
  | _ => lineMask sg

/-- The instructions that leave the data port's direction alone (10_state.md R39, column dir): the potentiometer requests, and
POWER_OFF, which changes only the control port's (41_lcd_control.md R174). -/
def keepsDataPort : Instr → Bool
  | .powerOff => true
  | .setContrast _ => true
  | .contrastInc => true
  | .contrastDec => true
  | .setBacklight _ => true
  | .backlightInc => true
  | .backlightDec => true
  | _ => false

/-- A lawful geometry: at least one position, and every position's DDRAM address has 7 bits (20_memory.md R63, R64). -/
def Geometry.wf (g : Geometry) : Prop := 0 < g.cols ∧ 0 < g.rows ∧ basesWf g.base g.cols g.rows = true

/-! ## What the environment is assumed to answer -/

/-- How many port transactions a trace holds; a `DLY` is none (95_test_vectors.md section 0). -/
def transactions (tr : List Event) : Nat :=
  tr.countP (fun e => match e with | .dly _ => false | .deadline => false | _ => true)

/-- None of the transactions of `tr`, made next, faults (40_bus_primitives.md R135). -/
def NoFault (s : State) (tr : List Event) : Prop := ∀ k, s.faultIn = some k → transactions tr ≤ k

/-- The answers of one busy poll: some with BF set, then one with BF clear. -/
structure Answers where
  busy : List Byte
  clear : Byte
  deriving DecidableEq, Repr

/-- The answers in order. -/
def Answers.bytes (a : Answers) : List Byte := a.busy ++ [a.clear]

/-- BF is set in each but the last, and a deadline is not reached (R139, R146). -/
def Answers.Lawful (a : Answers) (p : Params) : Prop :=
  (∀ b ∈ a.busy, busyFlag p b = true) ∧ busyFlag p a.clear = false ∧ ∀ k, p.pollDeadline = some k → a.busy.length < k

/-! ## States between requests -/

/-- An operational block, neither faulted nor closed: what 60_exceptions.md R277 asks for POWER_ON, POWER_OFF and CLOSE. -/
structure Admits (s : State) (g : Geometry) : Prop where
  geom : s.geom = some g
  faulted : s.faulted = false
  closed : s.closed = false

/-- A Ready block: what R277 asks for every other request. -/
structure Ready (s : State) (g : Geometry) : Prop extends Admits s g where
  ctrl : s.ctrl = .ready

/-- A Ready block between requests: lawful wiring, BusyPoll mode, RS = RW = EN = 0 and the data port an output
(10_state.md R40 (c), (e), (f)). -/
structure ReadyIdle (s : State) (g : Geometry) : Prop extends Ready s g where
  mode : s.waitMode = .busyPoll
  sig : s.cfg.sig.wf = true
  lines : s.shadow &&& lineMask s.cfg.sig = 0x00#8
  data : s.dirData = 0x00#8

/-- The state after bus traffic: the shadow and direction copies it leaves, the events it appends, the answers it uses. -/
def State.bus (s : State) (shadow dirControl dirData : Byte) (tr : List Event) (nreads : Nat) : State :=
  { s with
    shadow := shadow
    dirControl := dirControl
    dirData := dirData
    trace := s.trace ++ tr
    inputs := s.inputs.drop nreads
    reads := s.reads + nreads
    faultIn := s.faultIn.map (fun k => k - transactions tr) }

/-- The state after a request that answered OK: its trace is `tr`, `data` its bytes, `nreads` the answers it used, and
`shadow`, `dirControl` and `dirData` what it left; every other field is as before the request. -/
def State.completed (s : State) (shadow dirControl dirData : Byte) (tr : List Event) (nreads : Nat) (data : List Byte) :
    State :=
  (s.begin.bus shadow dirControl dirData tr nreads).answer { status := .ok, data := data }

/-- The state after a request refused before its first transaction: only the response and the trace are new. -/
def State.refused (s : State) (e : Status) : State :=
  { s with seq := [], out := [], trace := [], response := some { status := e, data := [] } }

/-! ## Traces (95_test_vectors.md section 0) -/

/-- `POLL(v)` from the control byte `h`. -/
def pollTrace (sg : SigMap) (h v : Byte) : List Event :=
  [.wc h, .wc (h ||| sg.rw), .dir .data 0xFF, .wc (h ||| sg.rw ||| sg.en), .rd v, .wc (h ||| sg.rw), .dir .data 0x00]

/-- `REPOLL(v)`: a later iteration, RW being 1 already. -/
def repollTrace (sg : SigMap) (h v : Byte) : List Event :=
  [.wc (h ||| sg.rw), .wc (h ||| sg.rw), .dir .data 0xFF, .wc (h ||| sg.rw ||| sg.en), .rd v, .wc (h ||| sg.rw),
    .dir .data 0x00]

/-- A whole busy poll's iterations for the answers `vs`. -/
def pollsTrace (sg : SigMap) (h : Byte) : List Byte → List Event
  | [] => []
  | v :: vs => pollTrace sg h v ++ vs.flatMap (repollTrace sg h)

/-- `CMD(b)`. -/
def cmdTrace (sg : SigMap) (h b : Byte) : List Event := [.wc h, .wc (h ||| sg.en), .wd b, .wc h]

/-- `BLK(bs)`. -/
def blkTrace (sg : SigMap) (h : Byte) (bs : List Byte) : List Event :=
  [.wc h, .wc (h ||| sg.rs)]
    ++ bs.flatMap (fun b => [.wc (h ||| sg.rs ||| sg.en), .wd b, .wc (h ||| sg.rs)]) ++ [.wc h]

/-- `RBLK(vs)`, after a poll. -/
def rblkTrace (sg : SigMap) (h : Byte) (vs : List Byte) : List Event :=
  [.wc (h ||| sg.rs ||| sg.rw), .wc (h ||| sg.rs ||| sg.rw), .dir .data 0xFF]
    ++ vs.flatMap (fun v => [.wc (h ||| sg.rs ||| sg.rw ||| sg.en), .rd v, .wc (h ||| sg.rs ||| sg.rw)])
    ++ [.dir .data 0x00, .wc h]

/-- A polled command: the busy poll, then `CMD(b)`. -/
def polledCmd (sg : SigMap) (h : Byte) (a : Answers) (b : Byte) : List Event := pollsTrace sg h a.bytes ++ cmdTrace sg h b

/-- A command from ANY control byte `h` without a poll (R140): the lines are cleared, EN rises, the byte, the lines clear. -/
def rawCmd (sg : SigMap) (h b : Byte) : List Event :=
  [.wc (h &&& ~~~(sg.rs ||| sg.rw)), .wc (h &&& ~~~(sg.rs ||| sg.rw) ||| sg.en), .wd b, .wc (h &&& ~~~(lineMask sg))]

/-- The SET_DDRAM byte of a position: `0x80 | (base[r] + c)` (20_memory.md R64). -/
def ddramByte (g : Geometry) (c r : Nat) : Byte := BitVec.ofNat 8 (0x80 + ((g.base.getD r 0).toNat + c))

/-- The 35 events of `init` (41_lcd_control.md R172) from the control byte `h`, FUNCTION_SET byte `fs`. -/
def initTrace (sg : SigMap) (h fs : Byte) : List Event :=
  let h1 := h &&& ~~~(lineMask sg)
  rawCmd sg h fs ++ [.dly .fs1] ++ rawCmd sg h1 fs ++ [.dly .fs2] ++ rawCmd sg h1 fs ++ [.dly .fs3]
    ++ rawCmd sg h1 0x08 ++ [.dly (.exec .displayCtrl)] ++ rawCmd sg h1 0x01 ++ [.dly (.exec .clear)]
    ++ rawCmd sg h1 0x06 ++ [.dly (.exec .entryMode)] ++ rawCmd sg h1 0x0C ++ [.dly (.exec .displayCtrl)]

/-- A burst of `n` pulses (43_potentiometer.md R244) on the select `cs` from the control byte `h`, upward or downward. -/
def burstTrace (sg : SigMap) (cs : Byte) (up : Bool) (n : Nat) (h : Byte) : List Event :=
  let u := h ||| sg.ud
  let d := h &&& ~~~sg.ud
  let first := if up then u else d
  let away := if up then d else u
  [.wc first, .wc (first &&& ~~~cs)]
    ++ (List.replicate n [Event.wc (away &&& ~~~cs), Event.wc (first &&& ~~~cs)]).flatten ++ [.wc (first ||| cs)]

/-- The events of `set(k, t)` (43_potentiometer.md R245) from the tracked position `p`, `t` being at most 63: none if the
position is there already, else one burst. -/
def wiperTrace (sg : SigMap) (cs h : Byte) (p t : Nat) : List Event :=
  if t = p then [] else burstTrace sg cs (decide (p < t)) (max p t - min p t) h

/-- The control byte `set(k, t)` leaves: the select at its idle high level, UD at the direction of the burst. -/
def wiperShadow (sg : SigMap) (cs h : Byte) (p t : Nat) : Byte :=
  if t = p then h else if p < t then h ||| sg.ud ||| cs else h &&& ~~~sg.ud ||| cs

/-- The transfers of PRINT as events, one poll's answers per transfer that is not an empty block. -/
def transfersTrace (sg : SigMap) (g : Geometry) (h : Byte) : List Transfer → List Answers → List Event
  | [], _ => []
  | .block [] :: ts, as => transfersTrace sg g h ts as
  | _ :: _, [] => []
  | .address c r :: ts, a :: as => polledCmd sg h a (ddramByte g c r) ++ transfersTrace sg g h ts as
  | .block (b :: bs) :: ts, a :: as =>
    pollsTrace sg h a.bytes ++ blkTrace sg h (b :: bs) ++ transfersTrace sg g h ts as

/-- How many transfers poll: all but the empty blocks (40_bus_primitives.md R142). -/
def polledTransfers (ts : List Transfer) : Nat := ts.countP (fun t => decide (t ≠ .block []))

/-- The value of the last SET_DDRAM_ADDRESS among the transfers, or `v` if there is none. -/
def lastAddress (g : Geometry) (v : Byte) (ts : List Transfer) : Byte :=
  ts.foldl (fun acc t => match t with | .address c r => ddram g c r | .block _ => acc) v

/-- Where the bytes of the transfers land, as (column, row, byte): the LCD's address counter is set by an address transfer
and moves one column per byte (20_memory.md R66). -/
def placements : List Transfer → Nat → Nat → List (Nat × Nat × Byte)
  | [], _, _ => []
  | .address c r :: ts, _, _ => placements ts c r
  | .block bs :: ts, c, r => (bs.zipIdx.map (fun p => (c + p.2, r, p.1))) ++ placements ts (c + bs.length) r

/-! ## The rows of a text (42_text_and_memory.md R210) -/

/-- The column at which the last of `n` spans of a line begins, the first beginning at column `c`. -/
def lastStart (c n : Nat) : Nat := if n = 1 then c else 0

/-- Whether the last span of a line that begins at column `c` reaches the last column. -/
def fillsRow (g : Geometry) (c : Nat) (spans : List (List Byte)) : Bool :=
  match spans.getLast? with
  | none => false
  | some sp => decide (g.cols ≤ lastStart c spans.length + sp.length)

/-- One line's transfers and cursor from (c, r), its spans given: span `k` is on row `(r + k) mod rows`, each but the first at
column 0 behind its address; a filled last row is followed by the address of the next. -/
def lineLayout (g : Geometry) (c r : Nat) (spans : List (List Byte)) : Layout :=
  let n := spans.length
  let full := fillsRow g c spans
  { transfers :=
      .address c r :: (spans.zipIdx.flatMap (fun x =>
        (if x.2 = 0 then [] else [Transfer.address 0 ((r + x.2) % g.rows)]) ++ [.block x.1])
      ++ (if full then [.address 0 ((r + n) % g.rows)] else []))
    col := if n = 0 then c else if full then 0 else lastStart c n + (spans.getLast?.map List.length).getD 0
    row := if n = 0 then r else if full then (r + n) % g.rows else (r + (n - 1)) % g.rows }

/-! ## Rules over whole traces -/

/-- The control byte of a control write, made or attempted. -/
def Event.controlByte : Event → Option Byte
  | .wc w => some w
  | .fails (.wc w) => some w
  | _ => none

/-- The answers a request given in `s` has heard by the state `t`, with those still listed: the listed ones, then as many free
values as were read past them (log entry 6). -/
def answersHeard (s t : State) : List Byte :=
  s.inputs ++ (List.range (t.reads - s.reads - s.inputs.length)).map (fun k => Config.portIn (s.reads + s.inputs.length + k))

/-- The pseudocode of an instruction that begins with a poll, from its wait on. -/
def stepsOf (s : State) (g : Geometry) : Instr → List Micro
  | .clear => homingSteps s.cfg.sig .clear
  | .home => homingSteps s.cfg.sig .home
  | .setCursor a0 a1 => setCursorSteps s.cfg.sig g a0 a1
  | .print text => printSteps s g text
  | .defineGlyph index bitmap => (glyphSteps s index bitmap g).toOption.getD []
  | .readRow row => (readRowSteps s row g).toOption.getD []
  | .setBlink on => toggleSteps s 0x01 on
  | .setCursorVisible on => toggleSteps s 0x02 on
  | .setDisplayVisible on => toggleSteps s 0x04 on
  | i => i.lcdOperands.toList.flatMap (fun x => command s.cfg.sig x.1 x.2 ++ [.respond])

/-- How many commands a trace completes: a data byte written with RS low (30_encoding.md R101) and the control write after it
made (40_bus_primitives.md R140, step 3). `h` is the control byte before the trace. -/
def commandsDone (rs h : Byte) : List Event → Nat
  | [] => 0
  | .wc w :: tr => commandsDone rs w tr
  | .wd _ :: .wc w :: tr => (if signalHigh rs h then 0 else 1) + commandsDone rs w tr
  | _ :: tr => commandsDone rs h tr

/-- The commands an instruction sends, in order, as `command`'s operands (41_lcd_control.md R172, R176 to R183;
42_text_and_memory.md R210, R215, R216; 40_bus_primitives.md R140). -/
def commandsOf (s : State) (g : Geometry) : Instr → List (LcdOp × Byte)
  | .powerOn =>
    List.replicate 3 (.functionSet, fsValue s.cfg g)
      ++ [(.displayCtrl, 0x00), (.clear, 0x00), (.entryMode, 0x02), (.displayCtrl, 0x04)]
  | .clear => [(.clear, 0x00)]
  | .home => [(.home, 0x00)]
  | .setCursor a0 a1 => [(.setDdramAddress, ddram g (a0.toNat % g.cols) (a1.toNat % g.rows))]
  | .print text =>
    (layoutText g text s.col s.row).transfers.filterMap (fun x =>
      match x with
      | .address c r => some (.setDdramAddress, ddram g c r)
      | .block _ => none)
  | .defineGlyph index _ => [(.setCgramAddress, index <<< 3), (.setDdramAddress, ddram g s.col s.row)]
  | .readRow row => [(.setDdramAddress, ddram g 0 row.toNat), (.setDdramAddress, ddram g s.col s.row)]
  | .setBlink on => [(.displayCtrl, toggled 0x01 on s.cs.displayCtrl)]
  | .setCursorVisible on => [(.displayCtrl, toggled 0x02 on s.cs.displayCtrl)]
  | .setDisplayVisible on => [(.displayCtrl, toggled 0x04 on s.cs.displayCtrl)]
  | i => i.lcdOperands.toList

/-- The last control byte written, attempted writes included, or `v` if there is none. -/
def lastControl (v : Byte) (tr : List Event) : Byte :=
  tr.foldl (fun acc e => match e with | .wc w => w | .fails (.wc w) => w | _ => acc) v

/-- The last direction byte written to port `p`, attempted writes included, or `v` if there is none. -/
def lastDir (p : Port) (v : Byte) (tr : List Event) : Byte :=
  tr.foldl (fun acc e =>
    match e with
    | .dir q m => if q = p then m else acc
    | .fails (.dir q m) => if q = p then m else acc
    | _ => acc) v

/-- The bus discipline of 70_reset_and_hazards.md R316, R317, read along a trace from the control byte `h` and the data
port's direction `d`: a data byte is written only with EN = 1, RW = 0 and the port an output; the port is sampled only
with EN = 1, RW = 1 and the port an input; the port's direction changes only with EN = 0. -/
def disciplined (sg : SigMap) : Byte → Byte → List Event → Bool
  | _, _, [] => true
  | _, d, .wc w :: tr => disciplined sg w d tr
  | h, _, .dir .data m :: tr => !signalHigh sg.en h && disciplined sg h m tr
  | h, d, .wd _ :: tr => signalHigh sg.en h && !signalHigh sg.rw h && d == 0x00#8 && disciplined sg h d tr
  | h, d, .rd _ :: tr => signalHigh sg.en h && signalHigh sg.rw h && d == 0xFF#8 && disciplined sg h d tr
  | h, d, _ :: tr => disciplined sg h d tr

/-- Is the event a failed transaction or the deadline marker? -/
def Event.isFailure : Event → Bool
  | .fails _ => true
  | .deadline => true
  | _ => false

/-! ## The invariant -/

/-- A step that may stand in a held request (70_reset_and_hazards.md R314): only a Ready request's transfers hold, and what
is left of one changes no mode, direction of the control port, power, wiper or SHIFT slot, never names IRS, and keeps the
cursor in range. -/
def Micro.mayBeHeld (sg : SigMap) (g : Geometry) : Micro → Prop
  | .signal m _ => m &&& sg.irs = 0x00#8 ∧ m &&& (sg.ccs ||| sg.bcs) = 0x00#8
  | .dir p m _ => p = .data ∧ m = 0xFF#8
  | .dataOut _ => True
  | .sample => True
  | .wait => True
  | .poll _ => True
  | .delay _ => True
  | .record op _ => op ≠ .shift
  | .cursor c r => c < g.cols ∧ r < g.rows
  | .pos _ _ => False
  | .mode _ => False
  | .ctrl _ => False
  | .powered _ => False
  | .close => False
  | .respond => True

/-- Whether the steps, run to their end, leave RS, RW and EN low and the data port an output, given whether they are known
to be so before. -/
def settles (sg : SigMap) : Bool → Bool → List Micro → Bool
  | lines, port, [] => lines && port
  | lines, port, .signal m on :: ms =>
    settles sg (if on then lines && decide (m &&& lineMask sg = 0x00#8) else lines || decide (lineMask sg &&& ~~~m = 0x00#8))
      port ms
  | lines, port, .dir .data m input :: ms =>
    settles sg lines (if input then port && decide (m = 0x00#8) else port || decide (m = 0xFF#8)) ms
  | _, port, .wait :: ms => settles sg false port ms
  | _, _, .poll _ :: ms => settles sg false true ms
  | lines, port, _ :: ms => settles sg lines port ms

/-- What holds of the block after construction and after every step: 10_state.md R40, with the facts it rests on. R40 (e) is
read with R144's "once the data port has first been made an output by POWER_ON" (log entry 22): in every idle block, Ready or
not, whose data port is an output. -/
structure Inv (s : State) : Prop where
  /-- The host can give requests only (40_bus_primitives.md, opening). -/
  port : ∀ c ∈ s.queue, c.isRequest = true
  /-- The wiring is lawful (00_scope.md R7). -/
  sig : s.cfg.sig.wf = true
  /-- Every geometry has a position (20_memory.md R61, R62). -/
  positions : ∀ g, s.geom = some g → 0 < g.cols ∧ 0 < g.rows
  /-- R40 (a). -/
  cursor : ∀ g, s.geom = some g → s.col < g.cols ∧ s.row < g.rows
  /-- R40 (b). -/
  wipers : s.contrast ≤ 63 ∧ s.backlight ≤ 63
  /-- R40 (c). -/
  mode : s.waitMode = .busyPoll ↔ s.ctrl = .ready
  /-- R40 (d). -/
  settled : s.faulted = false → s.ctrl ≠ .initializing
  /-- R40 (e), after POWER_OFF too (70_reset_and_hazards.md R321). -/
  idle : s.faulted = false → s.seq = [] → s.dirData = 0x00#8 → s.shadow &&& lineMask s.cfg.sig = 0x00#8
  /-- R40 (f). -/
  data : s.faulted = false → s.seq = [] → s.ctrl = .ready → s.dirData = 0x00#8
  /-- Both potentiometers are deselected in a block that is not faulted, once it has been Ready (00_scope.md R15, "Idle
  levels"; 43_potentiometer.md R246): while it is, and while a tracked position is not 0. -/
  selects : s.faulted = false → s.ctrl = .ready ∨ s.contrast ≠ 0 ∨ s.backlight ≠ 0 →
    s.shadow &&& s.cfg.sig.ccs = s.cfg.sig.ccs ∧ s.shadow &&& s.cfg.sig.bcs = s.cfg.sig.bcs
  /-- R40 (g). -/
  power : s.ctrl = .ready → s.powered = true
  /-- 30_encoding.md R104: SHIFT's slot keeps its reset value. -/
  shift : s.cs.shift = 0x00#8
  /-- A held request is a Ready block's, and what is left of it ends at idle levels. -/
  held : s.seq ≠ [] →
    s.ctrl = .ready ∧ s.faulted = false ∧ s.closed = false ∧ settles s.cfg.sig false false s.seq = true
      ∧ ∃ g, s.geom = some g ∧ ∀ m ∈ s.seq, m.mayBeHeld s.cfg.sig g

end Sys2Proof.Machine
end

