-- ==== Sys2Proof/Certificates/Slice0/Obligations.lean ====
section
/-! DEFINITION. The statements for the provers. They rest on the terms of Safety.lean. A state `s` is any state that meets the
hypotheses, whether or not a run reaches it. `s.shadow`, `s.dirControl` and `s.dirData` are the block's copies; a request's
trace starts empty. -/

open Sys2Proof Sys2Proof.Machine

/-! ## Encoding -/

/-- Decoding an encoded well-formed instruction gives it back, with every operand at every value its field admits, under every
lawful wiring (30_encoding.md R91, R92, R100, R101). -/
def Obligations.EncodeDecode : Prop :=
  ∀ (sg : SigMap) (i : Instr), sg.wf = true → i.wf = true → decode sg (encode sg i) = .ok i

/-- 30_encoding.md R92 to R94: decode on every word `RSV ++ ARG1 ++ ARG0 ++ OP` and every payload. The refusals, in the order
of R94's pseudocode, then what each operation code gives; an ignored argument is any byte. R94 answers one Illegal: that each
refusal has a name of its own is the model's (log entry 25). -/
def Obligations.DecodeRequest : Prop :=
  ∀ (sg : SigMap) (op a0 a1 rsv : Byte) (p : List Byte),
    let d := decode sg (.request (rsv ++ a1 ++ a0 ++ op) p)
    (rsv ≠ 0x00 → d = .error .reservedField) ∧
    (rsv = 0x00 → op ∉ requestOps → d = .error .unknownOp) ∧
    (rsv = 0x00 → op ∈ requestOps → op ≠ 0x06 → op ≠ 0x07 → p ≠ [] → d = .error .payloadNotEmpty) ∧
    (rsv = 0x00 → op = 0x07 → p.length ≠ 8 → d = .error .glyphLength) ∧
    (rsv = 0x00 → op = 0x01 → p = [] → d = .ok .powerOn) ∧
    (rsv = 0x00 → op = 0x02 → p = [] → d = .ok .powerOff) ∧
    (rsv = 0x00 → op = 0x03 → p = [] → d = .ok .clear) ∧
    (rsv = 0x00 → op = 0x04 → p = [] → d = .ok .home) ∧
    (rsv = 0x00 → op = 0x05 → p = [] → d = .ok (.setCursor a0 a1)) ∧
    (rsv = 0x00 → op = 0x06 → d = .ok (.print p)) ∧
    (rsv = 0x00 → op = 0x07 → p.length = 8 → d = .ok (.defineGlyph a0 p)) ∧
    (rsv = 0x00 → op = 0x08 → p = [] → d = .ok (.setContrast a0)) ∧
    (rsv = 0x00 → op = 0x09 → p = [] → d = .ok (.setBacklight a0)) ∧
    (rsv = 0x00 → op = 0x0A → p = [] → d = .ok (.setBlink (a0.toNat % 2 == 1))) ∧
    (rsv = 0x00 → op = 0x0B → p = [] → d = .ok (.setCursorVisible (a0.toNat % 2 == 1))) ∧
    (rsv = 0x00 → op = 0x0C → p = [] → d = .ok (.setDisplayVisible (a0.toNat % 2 == 1))) ∧
    (rsv = 0x00 → op = 0x0D → p = [] → d = .ok (.readRow a0)) ∧
    (rsv = 0x00 → op = 0x0E → p = [] → d = .ok .close) ∧
    (rsv = 0x00 → op = 0x10 → p = [] → d = .ok .contrastInc) ∧
    (rsv = 0x00 → op = 0x11 → p = [] → d = .ok .contrastDec) ∧
    (rsv = 0x00 → op = 0x12 → p = [] → d = .ok .backlightInc) ∧
    (rsv = 0x00 → op = 0x13 → p = [] → d = .ok .backlightDec)

/-- 30_encoding.md R100: an instruction byte is decoded by its highest set bit, the bits below it being the operand fields of
the table; the byte 0x00 is no instruction. -/
def Obligations.DecodeLcdByte : Prop :=
  ∀ (sg : SigMap) (b : Byte),
    decode sg (.lcd b) =
      (if 0x80 ≤ b.toNat then .ok (.hdSetDdramAddress (BitVec.ofNat 7 (b.toNat - 0x80)))
      else if 0x40 ≤ b.toNat then .ok (.hdSetCgramAddress (BitVec.ofNat 6 (b.toNat - 0x40)))
      else if 0x20 ≤ b.toNat then .ok (.hdFunctionSet b[4] b[3] b[2])
      else if 0x10 ≤ b.toNat then .ok (.hdShift b[3] b[2])
      else if 0x08 ≤ b.toNat then .ok (.hdDisplayCtrl b[2] b[1] b[0])
      else if 0x04 ≤ b.toNat then .ok (.hdEntryMode b[1] b[0])
      else if 0x02 ≤ b.toNat then .ok .hdHome
      else if b.toNat = 0x01 then .ok .hdClear
      else .error .noLcdInstruction)

/-- Words written out from the spec: R91's fields with R92's codes, R100's bytes, R101's control bytes under the default
`SIGMAP`. -/
def Obligations.DecodeWords : Prop :=
  decode Config.defaultSig (.request 0x00010305#32 []) = .ok (.setCursor 3 1) ∧
  decode Config.defaultSig (.request 0x00000006#32 [0x48, 0x69]) = .ok (.print [0x48, 0x69]) ∧
  decode Config.defaultSig (.request 0x00000307#32 [1, 2, 3, 4, 5, 6, 7, 8])
    = .ok (.defineGlyph 3 [1, 2, 3, 4, 5, 6, 7, 8]) ∧
  decode Config.defaultSig (.request 0x0000010A#32 []) = .ok (.setBlink true) ∧
  decode Config.defaultSig (.request 0x00002A08#32 []) = .ok (.setContrast 42) ∧
  decode Config.defaultSig (.lcd 0x38) = .ok (.hdFunctionSet true true false) ∧
  decode Config.defaultSig (.lcd 0x06) = .ok (.hdEntryMode true false) ∧
  decode Config.defaultSig (.lcd 0xC3) = .ok (.hdSetDdramAddress 0x43) ∧
  decode Config.defaultSig (.bus 0x04 0x41) = .ok (.busInstructionWrite 0x41) ∧
  decode Config.defaultSig (.bus 0xB6 0x00) = .ok .busBusyRead ∧
  decode Config.defaultSig (.bus 0xB5 0x41) = .ok (.busDataWrite 0x41) ∧
  decode Config.defaultSig (.bus 0xB7 0x00) = .ok .busDataRead

/-! ## Steps, admission and refusals -/

/-- When the next coded form decodes to an instruction, an idle step is `exec` of it, on the state with that form taken off the
queue and nothing else changed. 10_state.md R21 gives requests one at a time, each run to its end; the queue (log entry 1), that
one step runs one request whole (log entry 4), and that an HD44780 byte or a bus cycle can be given alone (log entries 8 and 9)
are the model's. -/
def Obligations.StepRunsDecoded : Prop :=
  ∀ (s : State) (c : Code) (q : List Code) (i : Instr),
    s.seq = [] → s.queue = c :: q → decode s.cfg.sig c = .ok i → i.wf = true → step s = exec i { s with queue := q }

/-- With nothing in progress and nothing waiting, a step changes nothing (70_reset_and_hazards.md R302). -/
def Obligations.StepIdle : Prop :=
  ∀ s : State, s.seq = [] → s.queue = [] → step s = .next s

/-- No instruction stops the machine in any state: its meaning answers a next state, an error or a refused request being a
response (60_exceptions.md, opening). -/
def Obligations.ExecAnswers : Prop :=
  ∀ (i : Instr) (s : State), ∃ t, exec i s = .next t

/-- 60_exceptions.md R277: the checks of `handle`, in order, and what the first that applies answers, with an empty trace and
no change but the response; a request that passes them runs its own rule. Of the errors only a bus fault of the request
itself follows a transaction: each other one leaves an empty trace. -/
def Obligations.HandleOrder : Prop :=
  (∀ (i : Instr) (s t : State) (r : Response), exec i s = .next t → t.response = some r → r.status ≠ .ok →
    t.trace = [] ∨ (r.status = .busFault ∧ s.faulted = false)) ∧
  ∀ (s : State) (w : BitVec 32) (p : List Byte) (q : List Code),
    s.seq = [] → s.queue = .request w p :: q →
    step s =
      (match decode s.cfg.sig (.request w p) with
      | .error _ => .next ({ s with queue := q }.refused .illegalRequest)
      | .ok i =>
        if s.geom = none then .next ({ s with queue := q }.refused .configurationError)
        else if s.faulted = true then .next ({ s with queue := q }.refused .busFault)
        else if s.closed = true then .next ({ s with queue := q }.refused .protocolPrecondition)
        else if i.lifecycle = false ∧ s.ctrl ≠ .ready then .next ({ s with queue := q }.refused .protocolPrecondition)
        else exec i { s with queue := q })

/-- 60_exceptions.md R276: decode refuses a word with a reserved OP or a non-zero RSV, a payload on a request that takes none and
a DEFINE_GLYPH payload whose length is not 8, and nothing else; what it refuses answers IllegalRequest in every state of the
block, makes no transaction and changes nothing but the response. -/
def Obligations.IllegalRequest : Prop :=
  (∀ (sg : SigMap) (w : BitVec 32) (p : List Byte),
    let op : Byte := w.extractLsb' 0 8
    (∃ e, decode sg (.request w p) = .error e) ↔
      w.extractLsb' 24 8 ≠ 0x00#8 ∨ op ∉ requestOps ∨ (op ≠ 0x06 ∧ op ≠ 0x07 ∧ p ≠ []) ∨ (op = 0x07 ∧ p.length ≠ 8)) ∧
  ∀ (s : State) (w : BitVec 32) (p : List Byte) (q : List Code) (e : DecodeError),
    s.seq = [] → s.queue = .request w p :: q → decode s.cfg.sig (.request w p) = .error e →
    step s = .next
      { s with
        queue := q
        seq := []
        out := []
        trace := []
        response := some { status := .illegalRequest, data := [] } }

/-- What R277 refuses, said of `exec`: every request in ConfigError, faulted, closed or, but for POWER_ON, POWER_OFF and CLOSE,
not Ready (60_exceptions.md R271 to R274). A busy read is refused with them where the block is not Ready (70_reset_and_hazards.md
R310). The model's choice (log entry 10): which status that is, and that an HD44780 instruction or another bus cycle passes the
same checks but the last. -/
def Obligations.RefusedStates : Prop :=
  ∀ (i : Instr) (s : State),
    (s.geom = none → exec i s = .next (s.refused .configurationError)) ∧
    (s.geom ≠ none → s.faulted = true → exec i s = .next (s.refused .busFault)) ∧
    (s.geom ≠ none → s.faulted = false → s.closed = true → exec i s = .next (s.refused .protocolPrecondition)) ∧
    (s.geom ≠ none → s.faulted = false → s.closed = false → (i.isRequest = true ∧ i.lifecycle = false) ∨ i = .busBusyRead →
      s.ctrl ≠ .ready →
      exec i s = .next (s.refused .protocolPrecondition))

/-- 60_exceptions.md R275: READ_ROW with a row outside the geometry and DEFINE_GLYPH with an index over 7 answer RangeError,
make no transaction and change nothing but the response; nothing else answers RangeError. -/
def Obligations.RangeErrors : Prop :=
  (∀ (s : State) (g : Geometry) (row : Byte), Ready s g → g.rows ≤ row.toNat →
    exec (.readRow row) s = .next (s.refused .rangeError)) ∧
  (∀ (s : State) (g : Geometry) (index : Byte) (bitmap : List Byte), Ready s g → 7 < index.toNat →
    exec (.defineGlyph index bitmap) s = .next (s.refused .rangeError)) ∧
  (∀ (i : Instr) (s t : State), exec i s = .next t → (∃ d, t.response = some { status := .rangeError, data := d }) →
    t = s.refused .rangeError ∧
      ((∃ row g, i = .readRow row ∧ s.geom = some g ∧ g.rows ≤ row.toNat) ∨
        ∃ index bitmap, i = .defineGlyph index bitmap ∧ 7 < index.toNat))

/-- What a response can hold (30_encoding.md R90, R110; 60_exceptions.md R270, R282): IllegalRequest is decode's alone,
ConfigurationError is ConfigError's alone, an error carries no bytes, and a request's response carries bytes only if it is
READ_ROW. -/
def Obligations.ResponseLaw : Prop :=
  ∀ (i : Instr) (s t : State) (r : Response), exec i s = .next t → t.response = some r →
    r.status ≠ .illegalRequest ∧
    (r.status = .configurationError ↔ s.geom = none) ∧
    (r.status ≠ .ok → r.data = []) ∧
    (i.isRequest = true → r.data ≠ [] → ∃ row, i = .readRow row) ∧
    (r.status = .protocolPrecondition → t = s.refused .protocolPrecondition) ∧
    (i.lifecycle = true → s.closed = false → r.status ≠ .protocolPrecondition)

/-! ## Invariants and whole-machine rules -/

/-- The invariant (10_state.md R40, with the facts it rests on) holds after every step from every state in which it holds. -/
def Obligations.StepKeepsInv : Prop :=
  ∀ s t : State, Inv s → step s = .next t → Inv t

/-- The invariant holds right after reset. -/
def Obligations.ResetInv : Prop := Inv State.reset

/-- The state after reset is `construct(16, 2)` with the default parameters and a latch read of 0x00 (the geometry and the
latch byte are the model's choice, log entries 2 and 3, as are the model's own fields, 1, 6, 7, 13); and the invariant holds
after every construction with a lawful wiring, whatever the latch answers (70_reset_and_hazards.md R300, R301). -/
def Obligations.ConstructInv : Prop :=
  State.reset = construct Config.defaults 16 2 (some 0x00) ∧
  ∀ (p : Params) (c r : Nat) (latch : Option Byte), p.sig.wf = true → Inv (construct p c r latch)

/-- 10_state.md R25: whatever runs, the IRS bit keeps its value. -/
def Obligations.IrsNeverChanges : Prop :=
  (∀ (i : Instr) (s t : State), s.cfg.sig.wf = true → exec i s = .next t →
    t.shadow &&& s.cfg.sig.irs = s.shadow &&& s.cfg.sig.irs) ∧
  (∀ s t : State, Inv s → step s = .next t → t.shadow &&& s.cfg.sig.irs = s.shadow &&& s.cfg.sig.irs)

/-- 10_state.md R25: "A model must not give IRS any effect": with the IRS bit flipped an instruction does the same in every
field, but that each control byte it writes has that bit flipped; the responses are the same. -/
def Obligations.IrsHasNoEffect : Prop :=
  ∀ (i : Instr) (s t : State), s.cfg.sig.wf = true → exec i s = .next t →
    let flip : Byte → Byte := fun v => v ^^^ s.cfg.sig.irs
    let seen : Event → Event := fun e =>
      match e with
      | .wc v => .wc (flip v)
      | .fails (.wc v) => .fails (.wc (flip v))
      | e => e
    exec i { s with shadow := flip s.shadow } = .next { t with shadow := flip t.shadow, trace := t.trace.map seen }

/-- 60_exceptions.md R273, R274 and 10_state.md R34 to R36: no step changes the geometry or the parameters, and no step clears
`closed` or `faulted`. -/
def Obligations.StickyState : Prop :=
  ∀ s t : State, step s = .next t →
    t.geom = s.geom ∧ t.cfg = s.cfg ∧ (s.closed = true → t.closed = true) ∧ (s.faulted = true → t.faulted = true)

/-- The block's copies are the last bytes it wrote, a failed write included (10_state.md R22, R26; 40_bus_primitives.md R136,
R137; 60_exceptions.md R274 (a), (b)); so too when a held request goes on (log entry 5). -/
def Obligations.CopiesAreLastWrites : Prop :=
  (∀ (i : Instr) (s t : State), exec i s = .next t →
    t.shadow = lastControl s.shadow t.trace ∧ t.dirControl = lastDir .control s.dirControl t.trace
      ∧ t.dirData = lastDir .data s.dirData t.trace) ∧
  ∀ s t : State, s.seq ≠ [] → step s = .next t →
    ∃ new, t.trace = s.trace ++ new ∧ t.shadow = lastControl s.shadow new
      ∧ t.dirControl = lastDir .control s.dirControl new ∧ t.dirData = lastDir .data s.dirData new

/-- 70_reset_and_hazards.md R310: POWER_ON, POWER_OFF and CLOSE never sample the data port, no request and no busy read does while
the block is not Ready, and no HD44780 instruction does in TimedDelay mode. -/
def Obligations.NoPollBeforeReady : Prop :=
  ∀ (i : Instr) (s t : State),
    i.lifecycle = true ∨ (s.ctrl ≠ .ready ∧ (i.isRequest = true ∨ i = .busBusyRead))
      ∨ (s.waitMode = .timedDelay ∧ i.lcdOperands ≠ none) →
    exec i s = .next t →
    ∀ v, Event.rd v ∉ t.trace ∧ Event.fails .rd ∉ t.trace

/-- 70_reset_and_hazards.md R316, R317: from idle lines, whatever runs, a data byte is written only while EN is high with RW
low and the data port an output, the port is sampled only while EN and RW are high with it an input, and its direction changes
only while EN is low. A request that is held and goes on makes the same trace (Obligations.PollHolds, last clause). -/
def Obligations.BusDiscipline : Prop :=
  ∀ (i : Instr) (s t : State), s.cfg.sig.wf = true → s.shadow &&& lineMask s.cfg.sig = 0x00#8 →
    (s.ctrl = .ready ∨ i.isRequest = false → s.dirData = 0x00#8) → exec i s = .next t →
    disciplined s.cfg.sig s.shadow s.dirData t.trace = true

/-- 43_potentiometer.md R240 and 70_reset_and_hazards.md R319: no control byte, a failed write's included (60_exceptions.md R274
(a)), selects both potentiometers. So of every instruction from both selects idle; of POWER_ON from any control byte, if the
contrast position is 0 or the backlight's select idle, one of which Inv gives; and of a held request that goes on. -/
def Obligations.OneSelectAtATime : Prop :=
  (∀ (i : Instr) (s t : State), s.cfg.sig.wf = true → signalHigh s.cfg.sig.ccs s.shadow = true →
    signalHigh s.cfg.sig.bcs s.shadow = true → exec i s = .next t →
    ∀ e ∈ t.trace, ∀ w, e.controlByte = some w → signalHigh s.cfg.sig.ccs w = true ∨ signalHigh s.cfg.sig.bcs w = true) ∧
  (∀ s t : State, s.cfg.sig.wf = true → s.contrast = 0 ∨ signalHigh s.cfg.sig.bcs s.shadow = true →
    exec .powerOn s = .next t →
    ∀ e ∈ t.trace, ∀ w, e.controlByte = some w → signalHigh s.cfg.sig.ccs w = true ∨ signalHigh s.cfg.sig.bcs w = true) ∧
  ∀ s t : State, Inv s → s.seq ≠ [] → step s = .next t →
    ∃ new, t.trace = s.trace ++ new ∧ ∀ e ∈ new, ∀ w, e.controlByte = some w →
      signalHigh s.cfg.sig.ccs w = true ∧ signalHigh s.cfg.sig.bcs w = true

/-- 70_reset_and_hazards.md R311: no rule reads a time value: with other time values an instruction does the same in every
field but the parameters themselves. -/
def Obligations.TimesAreLabels : Prop :=
  ∀ (i : Instr) (s t : State) (t1 t2 t3 : Nat) (te : PerOp Nat),
    let retime : State → State := fun x => { x with cfg := { x.cfg with tFs1 := t1, tFs2 := t2, tFs3 := t3, tExec := te } }
    exec i s = .next t → exec i (retime s) = .next (retime t)

/-! ## Frames -/

/-- 10_state.md R39, columns cs and col,row: each commandShadow slot and the tracked cursor are written only by the
instructions that the table names. -/
def Obligations.FrameShadowsAndCursor : Prop :=
  ∀ (i : Instr) (s t : State), exec i s = .next t →
    (∀ op : LcdOp, op ∉ i.slots → t.cs.get op = s.cs.get op) ∧
    (i.movesCursor = false → t.col = s.col ∧ t.row = s.row)

/-- 10_state.md R39, columns waitMode, ctrl, powered, pot pos and closed: only POWER_ON, POWER_OFF and CLOSE write the modes,
only CLOSE writes `closed`, and a tracked position is written only by POWER_ON and its own potentiometer's requests. -/
def Obligations.FrameModesAndWipers : Prop :=
  ∀ (i : Instr) (s t : State), exec i s = .next t →
    (i.lifecycle = false → t.waitMode = s.waitMode ∧ t.ctrl = s.ctrl ∧ t.powered = s.powered) ∧
    (i ≠ .close → t.closed = s.closed) ∧
    (∀ k : Pot, k ∉ wipers i → t.posOf k = s.posOf k)

/-- 10_state.md R24 and R39, columns shadow and dir: an instruction changes only the control-bus signals it drives; only
POWER_ON, POWER_OFF and CLOSE change the control port's direction; potentiometer requests and POWER_OFF leave the data port's
direction alone. Nothing takes from the queue but a step, and nothing writes the geometry. -/
def Obligations.FramePins : Prop :=
  ∀ (i : Instr) (s t : State), exec i s = .next t →
    t.shadow &&& ~~~(signals s.cfg.sig i) = s.shadow &&& ~~~(signals s.cfg.sig i) ∧
    (i.lifecycle = false → t.dirControl = s.dirControl) ∧
    (keepsDataPort i = true → t.dirData = s.dirData) ∧
    t.queue = s.queue ∧ t.geom = s.geom ∧ t.cfg = s.cfg

/-! ## Faults, deadline, holding -/

/-- 60_exceptions.md R270, R274, R278: an instruction sets `faulted` exactly when a transaction fails or the deadline is
reached; it then ends at once with (BusFault, []), that failure being the trace's last event and its only one. So too when a
held request goes on (log entry 5), of the events it adds. -/
def Obligations.FaultEnds : Prop :=
  (∀ (s t : State), s.seq ≠ [] → step s = .next t → s.faulted = false →
    ∃ new, t.trace = s.trace ++ new ∧ (t.faulted = true ↔ ∃ e ∈ new, e.isFailure = true) ∧
      (t.faulted = true →
        t.response = some { status := .busFault, data := [] } ∧ t.seq = [] ∧
          ∃ tr e, new = tr ++ [e] ∧ e.isFailure = true ∧ ∀ x ∈ tr, x.isFailure = false)) ∧
  ∀ (i : Instr) (s t : State), exec i s = .next t → s.faulted = false →
    (t.faulted = true ↔ ∃ e ∈ t.trace, e.isFailure = true) ∧
    (t.faulted = true →
      t.response = some { status := .busFault, data := [] } ∧ t.seq = [] ∧
        ∃ tr e, t.trace = tr ++ [e] ∧ e.isFailure = true ∧ ∀ x ∈ tr, x.isFailure = false)

/-- 60_exceptions.md R274 (c), (d), (e), (g): a fault leaves the slot of a request that sends one command, the cursor of the
requests that move it (POWER_ON apart), and the tracked position of a potentiometer request as before. Of an instruction that
sends several commands the slots hold what the commands completed before the fault sent, in order, and nothing of the command
that failed or of a later one. A request that is held and goes on leaves the same (Obligations.PollHolds, last clause). -/
def Obligations.FaultKeeps : Prop :=
  ∀ (i : Instr) (s t : State), exec i s = .next t → s.faulted = false → t.faulted = true →
    (i ∈ [.clear, .home] ∨ (∃ c r, i = .setCursor c r) ∨ (∃ b, i ∈ [.setBlink b, .setCursorVisible b, .setDisplayVisible b])
        ∨ i.lcdOperands ≠ none → t.cs = s.cs) ∧
    (i ≠ .powerOn → t.col = s.col ∧ t.row = s.row) ∧
    (i ≠ .powerOn → t.contrast = s.contrast ∧ t.backlight = s.backlight) ∧
    (∀ g, s.geom = some g → s.cfg.sig.wf = true →
      t.cs = ((commandsOf s g i).take (commandsDone s.cfg.sig.rs s.shadow t.trace)).foldl (fun cs x => cs.set x.1 x.2) s.cs)

/-- 60_exceptions.md R274 (e), (f), (g): where a fault of POWER_ON leaves the modes. Before initialisation (`m` transactions:
the directions, both potentiometers, PWR) nothing of them changes; inside it `ctrl` stays Initializing, `waitMode`
TimedDelay and `powered` true. A tracked position is 0 or as before. -/
def Obligations.FaultInPowerOn : Prop :=
  ∀ (s t : State) (g : Geometry), Admits s g → exec .powerOn s = .next t → t.faulted = true →
    let m := 7 + (if s.contrast = 0 then 0 else 2 * s.contrast + 3) + (if s.backlight = 0 then 0 else 2 * s.backlight + 3)
    (t.trace.length ≤ m → t.ctrl = s.ctrl ∧ t.waitMode = s.waitMode ∧ t.powered = s.powered) ∧
    (m < t.trace.length → t.ctrl = .initializing ∧ t.waitMode = .timedDelay ∧ t.powered = true) ∧
    (t.contrast = 0 ∨ t.contrast = s.contrast) ∧ (t.backlight = 0 ∨ t.backlight = s.backlight) ∧
    t.col = s.col ∧ t.row = s.row ∧ t.closed = false

/-- 40_bus_primitives.md R146: the deadline is off by default; set to `k`, a poll that has read BF set `k` times raises
BusFault. So of any iteration of any poll, of a whole poll from idle lines, and of the first poll of any instruction that
begins with one: it ends with `k` iterations made, each R139's, and the instruction answers (BusFault, []) (60_exceptions.md R274).
That an HD44780 instruction (R140) runs alone, and that it has a response, are the model's (log entries 8 and 10). -/
def Obligations.PollDeadline : Prop :=
  Config.defaults.pollDeadline = none ∧
  (∀ (s s' : State) (n k : Nat) (v : Byte), s.cfg.pollDeadline = some k → pollOnce s = .ok (v, s') →
    busyFlag s.cfg v = true → k ≤ n + 1 → perform (.poll n) s = .error (s'.emit .deadline)) ∧
  (∀ (s : State) (busy rest : List Byte), s.waitMode = .busyPoll → s.cfg.sig.wf = true →
    s.shadow &&& lineMask s.cfg.sig = 0x00#8 → s.cfg.pollDeadline = some busy.length → busy ≠ [] →
    (∀ b ∈ busy, busyFlag s.cfg b = true) → s.inputs = busy ++ rest → NoFault s (pollsTrace s.cfg.sig s.shadow busy) →
    waitReady s = .error (s.bus (s.shadow ||| s.cfg.sig.rw) s.dirControl 0x00
      (pollsTrace s.cfg.sig s.shadow busy ++ [.deadline]) busy.length)) ∧
  ∀ (s : State) (g : Geometry) (i : Instr) (busy rest : List Byte), ReadyIdle s g →
    i.pollsFirst g.rows →
    s.cfg.pollDeadline = some busy.length → busy ≠ [] → (∀ b ∈ busy, busyFlag s.cfg b = true) →
    s.inputs = busy ++ rest → NoFault s (pollsTrace s.cfg.sig s.shadow busy) →
    exec i s = .next
      ((s.begin.bus (s.shadow ||| s.cfg.sig.rw) s.dirControl 0x00 (pollsTrace s.cfg.sig s.shadow busy ++ [.deadline])
        busy.length).setFaulted.answer { status := .busFault, data := [] })

/-- 70_reset_and_hazards.md R314: a poll answered BF set by every listed byte, its deadline (if any) not reached, goes on to one
more answer, the free value `v`. In `waitReady` from idle lines: while BF is set the poll is held with its count; if BF is clear
it returns. In every instruction that begins with a poll (HD44780 instructions run alone among them, log entries 8 and 10): while
BF is set it does not respond, and is held with the steps after its wait still to run, every other field as before. CLEAR, for
one, completes if BF is clear. That a poll is held there is the model's (log entries 5 and 6). Last, the cut into steps changes
nothing: with the answers it has heard and `ys` listed from the start, an instruction does in one step what it does when it is
held and goes on with `ys`. The statement holds whatever the free values are. -/
def Obligations.PollHolds : Prop :=
  (∀ (s : State) (busy : List Byte), s.waitMode = .busyPoll → s.cfg.sig.wf = true →
    s.shadow &&& lineMask s.cfg.sig = 0x00#8 → (∀ k, s.cfg.pollDeadline = some k → busy.length + 1 < k) →
    (∀ b ∈ busy, busyFlag s.cfg b = true) → s.inputs = busy →
    let v := Config.portIn (s.reads + busy.length)
    let tr := pollsTrace s.cfg.sig s.shadow (busy ++ [v])
    let u := s.bus (s.shadow ||| s.cfg.sig.rw) s.dirControl 0x00 tr (busy.length + 1)
    NoFault s tr →
    waitReady s = .ok (if busyFlag s.cfg v = true then .hold (.poll (busy.length + 1)) u else .done u)) ∧
  (∀ (s : State) (g : Geometry) (i : Instr) (busy : List Byte), ReadyIdle s g → i.pollsFirst g.rows →
    (∀ k, s.cfg.pollDeadline = some k → busy.length + 1 < k) →
    (∀ b ∈ busy, busyFlag s.cfg b = true) → s.inputs = busy →
    let v := Config.portIn (s.reads + busy.length)
    let tr := pollsTrace s.cfg.sig s.shadow (busy ++ [v])
    NoFault s tr →
    ∃ t, exec i s = .next t ∧ tr <+: t.trace ∧
      (busyFlag s.cfg v = true → ∃ rest, stepsOf s g i = .wait :: rest ∧ t =
        (s.begin.bus (s.shadow ||| s.cfg.sig.rw) s.dirControl 0x00 tr (busy.length + 1)).setSeq
          (.poll (busy.length + 1) :: rest))) ∧
  (∀ (s : State) (g : Geometry) (busy : List Byte), ReadyIdle s g →
    (∀ k, s.cfg.pollDeadline = some k → busy.length + 1 < k) →
    (∀ b ∈ busy, busyFlag s.cfg b = true) → s.inputs = busy →
    let v := Config.portIn (s.reads + busy.length)
    let tr := pollsTrace s.cfg.sig s.shadow (busy ++ [v]) ++ cmdTrace s.cfg.sig s.shadow 0x01
    NoFault s tr →
    ∃ t, exec .clear s = .next t ∧
      (if busyFlag s.cfg v = true then t.response = none ∧ t.seq ≠ []
      else
        t = { s with cs := { s.cs with clear := 0x00 }, col := 0, row := 0 }.completed s.shadow s.dirControl 0x00 tr
          (busy.length + 1) [])) ∧
  ∀ (i : Instr) (s t : State) (ys : List Byte), exec i s = .next t →
    exec i { s with inputs := answersHeard s t ++ ys } =
      (if t.seq = [] then .next { t with inputs := t.inputs ++ ys } else step { t with inputs := ys })

/-- A held poll goes on with its later iterations at the next step (log entry 5: 40_bus_primitives.md R139 and
70_reset_and_hazards.md R314 know no steps), its deadline, if any, not reached by the `n` set flags before and those of now. When
the answers end with BF clear the rest of the request runs from there; past listed answers that all have BF set one more is the
free value (log entry 6), and while that has BF set the poll is held again. `h` is the idle control byte. -/
def Obligations.HeldPollGoesOn : Prop :=
  ∀ (s : State) (h : Byte) (n : Nat) (ms : List Micro) (busy : List Byte),
    s.seq = .poll n :: ms → s.cfg.sig.wf = true → h &&& lineMask s.cfg.sig = 0x00#8 → s.shadow = h ||| s.cfg.sig.rw →
    (∀ b ∈ busy, busyFlag s.cfg b = true) →
    let after : List Byte → State := fun vs =>
      { s with seq := [] }.bus s.shadow s.dirControl 0x00 (vs.flatMap (repollTrace s.cfg.sig h)) vs.length
    (∀ (clear : Byte) (rest : List Byte), busyFlag s.cfg clear = false → s.inputs = busy ++ [clear] ++ rest →
      (∀ k, s.cfg.pollDeadline = some k → n + busy.length < k) →
      NoFault s ((busy ++ [clear]).flatMap (repollTrace s.cfg.sig h)) →
      step s = .next (run ms (after (busy ++ [clear])))) ∧
    (s.inputs = busy → (∀ k, s.cfg.pollDeadline = some k → n + busy.length + 1 < k) →
      let v := Config.portIn (s.reads + busy.length)
      NoFault s ((busy ++ [v]).flatMap (repollTrace s.cfg.sig h)) →
      step s = .next
        (if busyFlag s.cfg v = true then (after (busy ++ [v])).setSeq (.poll (n + busy.length + 1) :: ms)
        else run ms (after (busy ++ [v]))))

/-! ## Operations -/

/-- 40_bus_primitives.md R136: `setSignal` changes the bits of the mask and no other, writes the whole byte, and has written
the shadow already when the port write fails. -/
def Obligations.SetSignal : Prop :=
  ∀ (s : State) (mask : Byte) (on : Bool),
    let v := if on then s.shadow ||| mask else s.shadow &&& ~~~mask
    v &&& ~~~mask = s.shadow &&& ~~~mask ∧ v &&& mask = (if on then mask else 0x00#8) ∧
    (s.faultIn = none → setSignal mask on s = .ok { s with shadow := v, trace := s.trace ++ [.wc v] }) ∧
    (∀ n, s.faultIn = some (n + 1) →
      setSignal mask on s = .ok { s with shadow := v, trace := s.trace ++ [.wc v], faultIn := some n }) ∧
    (s.faultIn = some 0 → setSignal mask on s = .error { s with shadow := v, trace := s.trace ++ [.fails (.wc v)] })

/-- 40_bus_primitives.md R137: `setDir`, the same law for the direction byte of each port; the data port, always switched
whole, goes to 0xFF or 0x00. -/
def Obligations.SetDir : Prop :=
  (∀ (s : State) (mask : Byte) (input : Bool),
    let v := if input then s.dirControl ||| mask else s.dirControl &&& ~~~mask
    (s.faultIn = none →
      setDir .control mask input s = .ok { s with dirControl := v, trace := s.trace ++ [.dir .control v] }) ∧
    (∀ n, s.faultIn = some (n + 1) → setDir .control mask input s
      = .ok { s with dirControl := v, trace := s.trace ++ [.dir .control v], faultIn := some n }) ∧
    (s.faultIn = some 0 →
      setDir .control mask input s = .error { s with dirControl := v, trace := s.trace ++ [.fails (.dir .control v)] })) ∧
  (∀ (s : State) (mask : Byte) (input : Bool),
    let v := if input then s.dirData ||| mask else s.dirData &&& ~~~mask
    (mask = 0xFF#8 → v = if input then 0xFF#8 else 0x00#8) ∧
    (s.faultIn = none → setDir .data mask input s = .ok { s with dirData := v, trace := s.trace ++ [.dir .data v] }) ∧
    (∀ n, s.faultIn = some (n + 1) → setDir .data mask input s
      = .ok { s with dirData := v, trace := s.trace ++ [.dir .data v], faultIn := some n }) ∧
    (s.faultIn = some 0 →
      setDir .data mask input s = .error { s with dirData := v, trace := s.trace ++ [.fails (.dir .data v)] }))

/-- 40_bus_primitives.md R138, R139: a wait issues nothing in TimedDelay mode; in BusyPoll mode, from idle lines, answers with
BF set and then one with BF clear make one poll: seven events an answer, RW left high, the data port an output. -/
def Obligations.WaitReady : Prop :=
  (∀ s : State, s.waitMode = .timedDelay → waitReady s = .ok (.done s)) ∧
  (∀ (s : State) (a : Answers) (rest : List Byte), s.waitMode = .busyPoll → s.cfg.sig.wf = true →
    s.shadow &&& lineMask s.cfg.sig = 0x00#8 → a.Lawful s.cfg → s.inputs = a.bytes ++ rest →
    NoFault s (pollsTrace s.cfg.sig s.shadow a.bytes) →
    waitReady s = .ok (.done (s.bus (s.shadow ||| s.cfg.sig.rw) s.dirControl 0x00
      (pollsTrace s.cfg.sig s.shadow a.bytes) a.bytes.length)))

/-- 40_bus_primitives.md R141: `writeByte`, which no request calls, from idle lines: `WC WC WC WD WC`, after the poll in
BusyPoll mode; no commandShadow slot changes. -/
def Obligations.WriteByte : Prop :=
  ∀ (s : State) (b : Byte) (a : Answers) (rest : List Byte), s.cfg.sig.wf = true →
    s.shadow &&& lineMask s.cfg.sig = 0x00#8 → a.Lawful s.cfg → s.inputs = a.bytes ++ rest →
    let h := s.shadow
    let sg := s.cfg.sig
    let cycle : List Event := [.wc h, .wc (h ||| sg.rs), .wc (h ||| sg.rs ||| sg.en), .wd b, .wc h]
    NoFault s (pollsTrace sg h a.bytes ++ cycle) →
    (s.waitMode = .timedDelay → run (writeByte sg b) s = s.bus h s.dirControl s.dirData cycle 0) ∧
    (s.waitMode = .busyPoll →
      run (writeByte sg b) s = s.bus h s.dirControl 0x00 (pollsTrace sg h a.bytes ++ cycle) a.bytes.length)

/-- 41_lcd_control.md R170: DL = 1, F = 0, and N = 1 unless one row was declared, when N is the parameter. -/
def Obligations.FunctionSetValue : Prop :=
  ∀ (p : Params) (g : Geometry),
    (g.declRows ≠ 1 → fsValue p g = 0x18#8) ∧
    (g.declRows = 1 → p.oneLineN = false → fsValue p g = 0x10#8) ∧
    (g.declRows = 1 → p.oneLineN = true → fsValue p g = 0x18#8)

/-- 20_memory.md R61 to R63, 70_reset_and_hazards.md R300: exactly seven declared pairs are supported, any other is a ConfigError
at construction, only (16,1) is normalised, to 8 columns by 2 rows, and the row bases are the ADDR_TABLE row of the declared
pair. -/
def Obligations.Geometries : Prop :=
  ∀ (p : Params) (c r : Nat),
    (∀ latch, (construct p c r latch).geom = none ↔
      (c, r) ∉ [(16, 1), (16, 2), (16, 4), (20, 2), (20, 4), (40, 2), (40, 4)]) ∧
    ∀ latch g, (construct p c r latch).geom = some g →
      g.declCols = c ∧ g.declRows = r ∧ (c = 16 → r = 1 → g.cols = 8 ∧ g.rows = 2) ∧
        (¬(c = 16 ∧ r = 1) → g.cols = c ∧ g.rows = r) ∧
        ((c, r), g.base) ∈
          [((16, 1), p.addrTable.g16x1), ((16, 2), p.addrTable.g16x2), ((16, 4), p.addrTable.g16x4),
            ((20, 2), p.addrTable.g20x2), ((20, 4), p.addrTable.g20x4), ((40, 2), p.addrTable.g40x2),
            ((40, 4), p.addrTable.g40x4)]

/-- 20_memory.md R63, R64: under lawful parameters every position of every supported geometry has a row base, and its DDRAM
address is `base[r] + c` exactly, below 0x80, so the byte sent is `0x80 + base[r] + c` with no carry lost. -/
def Obligations.DdramAddress : Prop :=
  ∀ (p : Params) (dc dr : Nat) (g : Geometry), p.wf = true → geometryOf p dc dr = some g →
    ∀ c r, c < g.cols → r < g.rows →
      ∃ b : BitVec 7, g.base[r]? = some b ∧ (ddram g c r).toNat = b.toNat + c ∧ b.toNat + c < 0x80 ∧
        (lcdOpcode .setDdramAddress ||| ddram g c r).toNat = 0x80 + (b.toNat + c)

/-- 70_reset_and_hazards.md R300, R301, 60_exceptions.md R271: the state after a successful construction, field by field, the
geometry being that of Obligations.Geometries; after a read fault the block is faulted; after an unsupported geometry it is in
ConfigError with no transaction made. -/
def Obligations.Construct : Prop :=
  ∀ (p : Params) (c r : Nat) (v : Byte),
    (∀ g, geometryOf p c r = some g →
      let s := construct p c r (some v)
      s.cfg = p ∧ s.geom = some g ∧ s.shadow = v ∧ s.dirControl = 0xFF ∧ s.dirData = 0xFF ∧
      (∀ op : LcdOp, s.cs.get op = 0x00) ∧ s.col = 0 ∧ s.row = 0 ∧ s.waitMode = .timedDelay ∧ s.ctrl = .uninitialized ∧
      s.powered = false ∧ s.contrast = 0 ∧ s.backlight = 0 ∧ s.closed = false ∧ s.faulted = false ∧ s.seq = [] ∧
      s.trace = [.rc v] ∧
      (construct p c r none).faulted = true ∧ (construct p c r none).trace = [.fails .rc]) ∧
    (geometryOf p c r = none → ∀ latch, (construct p c r latch).geom = none ∧ (construct p c r latch).trace = [])

/-- 42_text_and_memory.md R212: the lines are the pieces between 0x0A bytes, empty pieces kept, as the library's split gives
them: joined by 0x0A they are the payload, no line holds 0x0A, and `n` breaks give `n + 1` lines. -/
def Obligations.SplitLines : Prop :=
  ∀ p : List Byte,
    splitLines p = p.splitOn 0x0A ∧ ((splitLines p).intersperse [0x0A#8]).flatten = p ∧
      (∀ l ∈ splitLines p, 0x0A#8 ∉ l) ∧ (splitLines p).length = p.count 0x0A + 1

/-- 42_text_and_memory.md R211: the words are the maximal runs of bytes other than 0x20; the first span is no wider than the
room left and the others than the row; no byte but spaces is dropped or moved; the words of a span
are joined by exactly one space; a word no wider than the row is never split; a line with no word gives no span. -/
def Obligations.WrapSpans : Prop :=
  ∀ (line : List Byte) (room full : Nat), 1 ≤ room → room ≤ full →
    splitWords line = (line.splitOn 0x20).filter (fun w => decide (w ≠ [])) ∧
    (∀ sp ∈ (wrap line room full).head?, sp.length ≤ room) ∧
    (∀ sp ∈ wrap line room full, sp.length ≤ full) ∧
    (wrap line room full).flatten.filter (fun b => decide (b ≠ 0x20#8)) = line.filter (fun b => decide (b ≠ 0x20#8)) ∧
    (∀ sp ∈ wrap line room full, sp ≠ [] → [] ∉ sp.splitOn 0x20) ∧
    (∀ w ∈ splitWords line, w.length ≤ full → ∃ sp ∈ wrap line room full, w ∈ sp.splitOn 0x20) ∧
    (splitWords line = [] → wrap line room full = [])

/-- 42_text_and_memory.md R211, what `wrap` makes of the words `w :: ws` of a line, the first with `room` bytes left of a row of
`full`: an empty span exactly for a first word that fits the row but not the room; a hard cut at the room exactly for a word that
does not fit the row; else the longest run of words, joined by single spaces, that fits the room. What is left goes on with a
whole row. Only the words of a line count, and no word gives no span. -/
def Obligations.WrapGreedy : Prop :=
  (∀ (line : List Byte) (room full : Nat),
    wrap line room full = wrap ([0x20#8].intercalate (splitWords line)) room full ∧
      (splitWords line = [] → wrap line room full = [])) ∧
  ∀ (w : List Byte) (ws : List (List Byte)) (room full : Nat), 1 ≤ room → room ≤ full →
    (∀ x ∈ w :: ws, x ≠ [] ∧ 0x20#8 ∉ x) →
    let joined : List (List Byte) → List Byte := fun xs => [0x20#8].intercalate xs
    (room < w.length → w.length ≤ full →
      wrap (joined (w :: ws)) room full = [] :: wrap (joined (w :: ws)) full full) ∧
    (full < w.length →
      wrap (joined (w :: ws)) room full = w.take room :: wrap (joined (w.drop room :: ws)) full full) ∧
    (w.length ≤ room →
      ∃ n, n ≤ ws.length ∧ (joined (w :: ws.take n)).length ≤ room ∧
        (n < ws.length → room < (joined (w :: ws.take (n + 1))).length) ∧
        wrap (joined (w :: ws)) room full = joined (w :: ws.take n) :: wrap (joined (ws.drop n)) full full)

/-- 42_text_and_memory.md R210, R213, R214 and 20_memory.md R65: PRINT addresses only positions of the display. The position of a
byte is counted from the last address sent, one column a byte: 20_memory.md R66's law of the LCD's counter, which R66 marks as
general knowledge. The bytes are sent unchanged and in order, but for spaces and line breaks, and the cursor ends inside the
display. Nothing is said of what the LCD takes or shows (70_reset_and_hazards.md R312). -/
def Obligations.PrintLandsOnDisplay : Prop :=
  ∀ (g : Geometry) (text : List Byte) (c r : Nat), c < g.cols → r < g.rows →
    let l := layoutText g text c r
    (∀ x ∈ placements l.transfers c r, x.1 < g.cols ∧ x.2.1 < g.rows) ∧
    ((placements l.transfers c r).map (fun x => x.2.2)).filter (fun b => decide (b ≠ 0x20#8))
      = text.filter (fun b => decide (b ≠ 0x20#8 ∧ b ≠ 0x0A#8)) ∧
    l.col < g.cols ∧ l.row < g.rows ∧
    (∀ x ∈ l.transfers, ∀ a b, x = .address a b → a < g.cols ∧ b < g.rows)

/-- 42_text_and_memory.md R210, R213: the rows of a text. A line without a break is laid out from its spans alone, span `k` on row
`(r + k) mod rows`, each but the first at column 0 behind its address; a filled last row goes to column 0 of the next. After a
break the rest of the text is laid out from column 0 of the row after the one the part before it ended on. -/
def Obligations.PrintRows : Prop :=
  ∀ (g : Geometry) (line : List Byte) (c r : Nat), c < g.cols → r < g.rows → 0x0A#8 ∉ line →
    layoutText g line c r = lineLayout g c r (wrap line (g.cols - c) g.cols) ∧
    ∀ more : List Byte,
      let a := lineLayout g c r (wrap line (g.cols - c) g.cols)
      let b := layoutText g more 0 ((a.row + 1) % g.rows)
      layoutText g (line ++ 0x0A#8 :: more) c r = { transfers := a.transfers ++ b.transfers, col := b.col, row := b.row }

/-! ## Results: each instruction completes -/

/-- CLEAR and HOME (41_lcd_control.md R176, R177): one polled command, its slot written, the cursor at (0, 0). -/
def Obligations.ClearHomeResult : Prop :=
  ∀ (s : State) (g : Geometry) (a : Answers) (rest : List Byte), ReadyIdle s g → a.Lawful s.cfg → s.inputs = a.bytes ++ rest →
    (NoFault s (polledCmd s.cfg.sig s.shadow a 0x01) →
      exec .clear s = .next ({ s with cs := { s.cs with clear := 0x00 }, col := 0, row := 0 }.completed s.shadow s.dirControl
        0x00 (polledCmd s.cfg.sig s.shadow a 0x01) a.bytes.length [])) ∧
    (NoFault s (polledCmd s.cfg.sig s.shadow a 0x02) →
      exec .home s = .next ({ s with cs := { s.cs with home := 0x00 }, col := 0, row := 0 }.completed s.shadow s.dirControl
        0x00 (polledCmd s.cfg.sig s.shadow a 0x02) a.bytes.length []))

/-- SET_CURSOR (R178): both coordinates wrap, and the byte `0x80 + base[r] + c` is sent. -/
def Obligations.SetCursorResult : Prop :=
  ∀ (s : State) (g : Geometry) (a : Answers) (rest : List Byte) (a0 a1 : Byte), ReadyIdle s g → g.wf → a.Lawful s.cfg →
    s.inputs = a.bytes ++ rest →
    let c := a0.toNat % g.cols
    let r := a1.toNat % g.rows
    NoFault s (polledCmd s.cfg.sig s.shadow a (ddramByte g c r)) →
    exec (.setCursor a0 a1) s = .next ({ s with cs := { s.cs with setDdramAddress := ddram g c r }, col := c, row := r }.completed
      s.shadow s.dirControl 0x00 (polledCmd s.cfg.sig s.shadow a (ddramByte g c r)) a.bytes.length [])

/-- R178: arguments equal modulo the geometry do the same. -/
def Obligations.SetCursorWraps : Prop :=
  ∀ (s : State) (g : Geometry) (a0 a1 b0 b1 : Byte), s.geom = some g → a0.toNat % g.cols = b0.toNat % g.cols →
    a1.toNat % g.rows = b1.toNat % g.rows → exec (.setCursor a0 a1) s = exec (.setCursor b0 b1) s

/-- SET_BLINK, SET_CURSOR_VISIBLE and SET_DISPLAY_VISIBLE (R179 to R182): one bit of DISPLAY_CTRL's last value is set or
cleared, the others kept, and the command sent even when nothing changes. -/
def Obligations.ToggleResult : Prop :=
  ∀ (s : State) (g : Geometry) (a : Answers) (rest : List Byte) (on : Bool), ReadyIdle s g → a.Lawful s.cfg →
    s.inputs = a.bytes ++ rest →
    ∀ x ∈ [(Instr.setBlink on, 0x01#8), (.setCursorVisible on, 0x02#8), (.setDisplayVisible on, 0x04#8)],
      let v := if on then s.cs.displayCtrl ||| x.2 else s.cs.displayCtrl &&& ~~~x.2
      NoFault s (polledCmd s.cfg.sig s.shadow a (0x08 ||| v)) →
      exec x.1 s = .next ({ s with cs := { s.cs with displayCtrl := v } }.completed s.shadow s.dirControl 0x00
        (polledCmd s.cfg.sig s.shadow a (0x08 ||| v)) a.bytes.length [])

/-- PRINT (42_text_and_memory.md R210): the transfers of the layout from the tracked cursor, one poll for each that is not
an empty block, and the cursor persisted at the end. -/
def Obligations.PrintResult : Prop :=
  ∀ (s : State) (g : Geometry) (text : List Byte) (as : List Answers) (rest : List Byte), ReadyIdle s g → g.wf →
    s.col < g.cols → s.row < g.rows →
    let l := layoutText g text s.col s.row
    as.length = polledTransfers l.transfers → (∀ a ∈ as, a.Lawful s.cfg) → s.inputs = as.flatMap Answers.bytes ++ rest →
    NoFault s (transfersTrace s.cfg.sig g s.shadow l.transfers as) →
    exec (.print text) s = .next
      ({ s with
          cs := { s.cs with setDdramAddress := lastAddress g s.cs.setDdramAddress l.transfers }
          col := l.col
          row := l.row }.completed s.shadow s.dirControl 0x00
        (transfersTrace s.cfg.sig g s.shadow l.transfers as) (as.flatMap Answers.bytes).length [])

/-- R210's example: `PRINT "Hello\nWorld"` from (0, 0) on (16,2): the transfers, and the cursor at (5, 1). -/
def Obligations.PrintExample : Prop :=
  ∀ g, geometryOf Config.defaults 16 2 = some g →
    layoutText g [0x48, 0x65, 0x6C, 0x6C, 0x6F, 0x0A, 0x57, 0x6F, 0x72, 0x6C, 0x64] 0 0 =
      { transfers := [.address 0 0, .block [0x48, 0x65, 0x6C, 0x6C, 0x6F], .address 0 1, .block [0x57, 0x6F, 0x72, 0x6C, 0x64]]
        col := 5, row := 1 }

/-- DEFINE_GLYPH (R215): SET_CGRAM_ADDRESS with `index << 3`, the block of eight bytes, and the cursor's address restored. -/
def Obligations.DefineGlyphResult : Prop :=
  ∀ (s : State) (g : Geometry) (index : Byte) (bitmap : List Byte) (a1 a2 a3 : Answers) (rest : List Byte), ReadyIdle s g →
    g.wf → s.col < g.cols → s.row < g.rows → index.toNat ≤ 7 → bitmap.length = 8 →
    a1.Lawful s.cfg → a2.Lawful s.cfg → a3.Lawful s.cfg → s.inputs = a1.bytes ++ a2.bytes ++ a3.bytes ++ rest →
    let sg := s.cfg.sig
    let h := s.shadow
    let tr := polledCmd sg h a1 (BitVec.ofNat 8 (0x40 + 8 * index.toNat)) ++ (pollsTrace sg h a2.bytes ++ blkTrace sg h bitmap)
      ++ polledCmd sg h a3 (ddramByte g s.col s.row)
    NoFault s tr →
    exec (.defineGlyph index bitmap) s = .next
      ({ s with cs := { s.cs with setCgramAddress := BitVec.ofNat 8 (8 * index.toNat), setDdramAddress := ddram g s.col s.row }
        }.completed h s.dirControl 0x00 tr (a1.bytes ++ a2.bytes ++ a3.bytes).length [])

/-- READ_ROW (R216): SET_DDRAM_ADDRESS at the row's base, `cols` bytes read, the cursor's address restored, and the bytes
answered in the order read. -/
def Obligations.ReadRowResult : Prop :=
  ∀ (s : State) (g : Geometry) (row : Byte) (vs : List Byte) (a1 a2 a3 : Answers) (rest : List Byte), ReadyIdle s g → g.wf →
    s.col < g.cols → s.row < g.rows → row.toNat < g.rows → vs.length = g.cols →
    a1.Lawful s.cfg → a2.Lawful s.cfg → a3.Lawful s.cfg → s.inputs = a1.bytes ++ a2.bytes ++ vs ++ a3.bytes ++ rest →
    let sg := s.cfg.sig
    let h := s.shadow
    let tr := polledCmd sg h a1 (ddramByte g 0 row.toNat) ++ (pollsTrace sg h a2.bytes ++ rblkTrace sg h vs)
      ++ polledCmd sg h a3 (ddramByte g s.col s.row)
    NoFault s tr →
    exec (.readRow row) s = .next
      ({ s with cs := { s.cs with setDdramAddress := ddram g s.col s.row } }.completed h s.dirControl 0x00 tr
        (a1.bytes ++ a2.bytes ++ vs ++ a3.bytes).length vs)

/-- SET_CONTRAST and SET_BACKLIGHT (43_potentiometer.md R244, R245, R248, R249): the level clamped to 63, one burst of as many
pulses as the distance, none if it is 0. -/
def Obligations.SetWiperResult : Prop :=
  ∀ (s : State) (g : Geometry) (level : Byte), Ready s g → s.cfg.sig.wf = true →
    let sg := s.cfg.sig
    let t := min level.toNat 63
    (NoFault s (wiperTrace sg sg.ccs s.shadow s.contrast t) →
      exec (.setContrast level) s = .next ({ s with contrast := t }.completed (wiperShadow sg sg.ccs s.shadow s.contrast t)
        s.dirControl s.dirData (wiperTrace sg sg.ccs s.shadow s.contrast t) 0 [])) ∧
    (NoFault s (wiperTrace sg sg.bcs s.shadow s.backlight t) →
      exec (.setBacklight level) s = .next ({ s with backlight := t }.completed (wiperShadow sg sg.bcs s.shadow s.backlight t)
        s.dirControl s.dirData (wiperTrace sg sg.bcs s.shadow s.backlight t) 0 []))

/-- CONTRAST_INC, BACKLIGHT_INC, CONTRAST_DEC and BACKLIGHT_DEC (R241 to R243, R250, R251): UD, select low, select high, the
pulse made at a boundary too, and the position moved by one and clamped. -/
def Obligations.StepWiperResult : Prop :=
  ∀ (s : State) (g : Geometry), Ready s g →
    let sg := s.cfg.sig
    let up := s.shadow ||| sg.ud
    let down := s.shadow &&& ~~~sg.ud
    let pulse : Byte → Byte → List Event := fun w cs => [.wc w, .wc (w &&& ~~~cs), .wc (w ||| cs)]
    (NoFault s (pulse up sg.ccs) →
      exec .contrastInc s = .next ({ s with contrast := min (s.contrast + 1) 63 }.completed (up ||| sg.ccs) s.dirControl
        s.dirData (pulse up sg.ccs) 0 [])) ∧
    (NoFault s (pulse up sg.bcs) →
      exec .backlightInc s = .next ({ s with backlight := min (s.backlight + 1) 63 }.completed (up ||| sg.bcs) s.dirControl
        s.dirData (pulse up sg.bcs) 0 [])) ∧
    (NoFault s (pulse down sg.ccs) →
      exec .contrastDec s = .next ({ s with contrast := s.contrast - 1 }.completed (down ||| sg.ccs) s.dirControl
        s.dirData (pulse down sg.ccs) 0 [])) ∧
    (NoFault s (pulse down sg.bcs) →
      exec .backlightDec s = .next ({ s with backlight := s.backlight - 1 }.completed (down ||| sg.bcs) s.dirControl
        s.dirData (pulse down sg.bcs) 0 []))

/-- POWER_ON (41_lcd_control.md R171 to R173, 43_potentiometer.md R246), from every control byte, direction and tracked
position, Ready or not: the pins made outputs, each potentiometer deselected and pulsed down to 0, PWR high, the 35 events of
initialisation, and a Ready block. -/
def Obligations.PowerOnResult : Prop :=
  ∀ (s : State) (g : Geometry), Admits s g → s.cfg.sig.wf = true →
    let sg := s.cfg.sig
    let fs := fsValue s.cfg g
    let d1 := s.dirControl &&& ~~~(lineMask sg ||| sg.pwr)
    let d2 := d1 &&& ~~~(sg.ccs ||| sg.ud)
    let d3 := d2 &&& ~~~(sg.bcs ||| sg.ud)
    let h1 := s.shadow ||| sg.ccs
    let h2 := wiperShadow sg sg.ccs h1 s.contrast 0
    let h3 := h2 ||| sg.bcs
    let h4 := wiperShadow sg sg.bcs h3 s.backlight 0
    let h5 := h4 ||| sg.pwr
    let tr := [.dir .control d1, .dir .data 0x00, .dir .control d2, .wc h1] ++ wiperTrace sg sg.ccs h1 s.contrast 0
      ++ [.dir .control d3, .wc h3] ++ wiperTrace sg sg.bcs h3 s.backlight 0 ++ [.wc h5] ++ initTrace sg h5 (0x20 ||| fs)
    NoFault s tr →
    exec .powerOn s = .next
      ({ s with
          cs := { s.cs with functionSet := fs, displayCtrl := 0x04, clear := 0x00, entryMode := 0x02 }
          col := 0
          row := 0
          waitMode := .busyPoll
          ctrl := .ready
          powered := true
          contrast := 0
          backlight := 0 }.completed (h5 &&& ~~~(lineMask sg)) d3 0x00 tr 0 [])

/-- POWER_OFF and CLOSE (R174, R175, 43_potentiometer.md R247): the potentiometer pins back to inputs, PWR low, Uninitialized
and TimedDelay, every other field kept; CLOSE then makes every pin an input and closes the block. -/
def Obligations.PowerOffCloseResult : Prop :=
  ∀ (s : State) (g : Geometry), Admits s g →
    let sg := s.cfg.sig
    let d1 := s.dirControl ||| (sg.ccs ||| sg.ud)
    let d2 := d1 ||| (sg.bcs ||| sg.ud)
    let h := s.shadow &&& ~~~sg.pwr
    let off := { s with powered := false, ctrl := .uninitialized, waitMode := .timedDelay }
    (NoFault s [.dir .control d1, .dir .control d2, .wc h] →
      exec .powerOff s = .next (off.completed h d2 s.dirData [.dir .control d1, .dir .control d2, .wc h] 0 [])) ∧
    (NoFault s [.dir .control d1, .dir .control d2, .wc h, .dir .control 0xFF, .dir .data 0xFF] →
      exec .close s = .next ({ off with closed := true }.completed h 0xFF 0xFF
        [.dir .control d1, .dir .control d2, .wc h, .dir .control 0xFF, .dir .data 0xFF] 0 []))

/-- The eight HD44780 instructions (40_bus_primitives.md R140; that one runs alone, and where, is the model's choice, log
entries 8 and 10): the instruction's own byte is sent, after a poll in BusyPoll mode and without one in TimedDelay mode, and
its value recorded. -/
def Obligations.LcdInstructionResult : Prop :=
  ∀ (s : State) (g : Geometry) (i : Instr) (op : LcdOp) (v b : Byte), i.lcdOperands = some (op, v) →
    encode s.cfg.sig i = .lcd b →
    (∀ (a : Answers) (rest : List Byte), ReadyIdle s g → a.Lawful s.cfg → s.inputs = a.bytes ++ rest →
      NoFault s (polledCmd s.cfg.sig s.shadow a b) →
      exec i s = .next ({ s with cs := s.cs.set op v }.completed s.shadow s.dirControl 0x00
        (polledCmd s.cfg.sig s.shadow a b) a.bytes.length [])) ∧
    (Admits s g → s.waitMode = .timedDelay → NoFault s (rawCmd s.cfg.sig s.shadow b) →
      exec i s = .next ({ s with cs := s.cs.set op v }.completed (s.shadow &&& ~~~(lineMask s.cfg.sig)) s.dirControl s.dirData
        (rawCmd s.cfg.sig s.shadow b) 0 []))

/-- The four bus cycles (30_encoding.md R101; 40_bus_primitives.md R139, R140, R142, R143; that one runs alone is the model's
choice, log entries 9 and 10): one EN pulse with RS and RW at the cycle's levels, from idle lines; the busy read in a Ready
block (70_reset_and_hazards.md R310). -/
def Obligations.BusCycleResult : Prop :=
  ∀ (s : State) (g : Geometry) (b v : Byte) (rest : List Byte), Admits s g → s.cfg.sig.wf = true →
    s.shadow &&& lineMask s.cfg.sig = 0x00#8 → s.inputs = v :: rest →
    let sg := s.cfg.sig
    let h := s.shadow
    let x := h ||| sg.rs ||| sg.rw
    let rd : List Event := [.wc (h ||| sg.rs), .wc x, .dir .data 0xFF, .wc (x ||| sg.en), .rd v, .wc x, .dir .data 0x00, .wc h]
    (NoFault s (cmdTrace sg h b) →
      exec (.busInstructionWrite b) s = .next (s.completed h s.dirControl s.dirData (cmdTrace sg h b) 0 [])) ∧
    (s.ctrl = .ready → NoFault s (pollTrace sg h v) →
      exec .busBusyRead s = .next (s.completed (h ||| sg.rw) s.dirControl 0x00 (pollTrace sg h v) 1 [v])) ∧
    (NoFault s (blkTrace sg h [b]) →
      exec (.busDataWrite b) s = .next (s.completed h s.dirControl s.dirData (blkTrace sg h [b]) 0 [])) ∧
    (NoFault s rd → exec .busDataRead s = .next (s.completed h s.dirControl 0x00 rd 1 [v]))

/-- 70_reset_and_hazards.md R331: the lengths of whole requests that complete, in trace events, `q` polls having been made:
POWER_ON 42 from tracked positions 0, POWER_OFF 3, CLOSE 5, one command `4 + 7q`, DEFINE_GLYPH and READ_ROW as given. -/
def Obligations.EventCounts : Prop :=
  ∀ (s t : State) (i : Instr), exec i s = .next t → t.response.map Response.status = some .ok →
    let q := t.reads - s.reads
    (i = .powerOn → s.contrast = 0 → s.backlight = 0 → t.trace.length = 42) ∧
    (i = .powerOff → t.trace.length = 3) ∧
    (i = .close → t.trace.length = 5) ∧
    (i ∈ [.clear, .home] ∨ (∃ c r, i = .setCursor c r) ∨ (∃ b, i ∈ [.setBlink b, .setCursorVisible b, .setDisplayVisible b]) →
      t.trace.length = 4 + 7 * q) ∧
    (∀ x bitmap, i = .defineGlyph x bitmap → bitmap.length = 8 → t.trace.length = 35 + 7 * q) ∧
    (∀ row g, i = .readRow row → s.geom = some g → 0 < g.cols →
      t.trace.length + 7 * g.cols = 3 * g.cols + 13 + 7 * q) ∧
    (i ∈ [.contrastInc, .contrastDec, .backlightInc, .backlightDec] → t.trace.length = 3)
end

