-- ==== Sys2Proof/Laws/Bits.lean ====
section
/-! SUPPORT. Byte algebra of the toggle engine, and what a lawful wiring gives: distinct signals share no bit. -/

namespace Sys2Proof

/-- Clearing bits a byte does not have changes nothing. -/
theorem clear_of_disjoint {h m : Byte} (hm : h &&& m = 0x00#8) : h &&& ~~~m = h := by
  ext i hi
  have := congrArg (fun b => b.getLsbD i) hm
  simp only [BitVec.getElem_and, BitVec.getElem_not]
  simp [BitVec.getLsbD_eq_getElem hi] at this
  cases hh : h[i] <;> simp_all

/-- Setting then clearing bits a byte does not have gives the byte back. -/
theorem set_clear_of_disjoint {h m : Byte} (hm : h &&& m = 0x00#8) : (h ||| m) &&& ~~~m = h := by
  ext i hi
  have := congrArg (fun b => b.getLsbD i) hm
  simp only [BitVec.getElem_and, BitVec.getElem_or, BitVec.getElem_not]
  simp [BitVec.getLsbD_eq_getElem hi] at this
  cases hh : h[i] <;> cases hm' : m[i] <;> simp_all

theorem or_disjoint {a b m : Byte} : (a ||| b) &&& m = 0x00#8 ↔ a &&& m = 0x00#8 ∧ b &&& m = 0x00#8 := by
  constructor
  · intro h
    constructor <;>
    · ext i hi
      have := congrArg (fun b => b.getLsbD i) h
      simp [BitVec.getLsbD_eq_getElem hi] at this
      simp only [BitVec.getElem_and, BitVec.getElem_zero]
      cases ha : a[i] <;> cases hb : b[i] <;> cases hm : m[i] <;> simp_all
  · rintro ⟨h1, h2⟩
    ext i hi
    have t1 := congrArg (fun b => b.getLsbD i) h1
    have t2 := congrArg (fun b => b.getLsbD i) h2
    simp [BitVec.getLsbD_eq_getElem hi] at t1 t2
    simp only [BitVec.getElem_and, BitVec.getElem_or, BitVec.getElem_zero]
    cases ha : a[i] <;> cases hb : b[i] <;> cases hm : m[i] <;> simp_all

theorem disjoint_or {a b m : Byte} : m &&& (a ||| b) = 0x00#8 ↔ m &&& a = 0x00#8 ∧ m &&& b = 0x00#8 := by
  rw [BitVec.and_comm, or_disjoint, BitVec.and_comm a, BitVec.and_comm b]

/-- Two different one-bit masks share no bit. -/
theorem oneBit_disjoint {a b : Byte} (ha : oneBit a = true) (hb : oneBit b = true) (h : a ≠ b) : a &&& b = 0x00#8 := by
  simp only [oneBit, decide_eq_true_eq, List.mem_cons, List.not_mem_nil, or_false] at ha hb
  rcases ha with rfl | rfl | rfl | rfl | rfl | rfl | rfl | rfl <;>
    rcases hb with rfl | rfl | rfl | rfl | rfl | rfl | rfl | rfl <;> first | rfl | exact absurd rfl h

theorem oneBit_ne_zero {a : Byte} (ha : oneBit a = true) : a ≠ 0x00#8 := by
  rintro rfl
  exact absurd ha (by decide)

/-- What a lawful `SIGMAP` gives: the masks are pairwise disjoint (00_scope.md R7). -/
structure SigMap.Disjoint (sg : SigMap) : Prop where
  rs_rw : sg.rs &&& sg.rw = 0x00#8
  rs_en : sg.rs &&& sg.en = 0x00#8
  rw_en : sg.rw &&& sg.en = 0x00#8
  rs_irs : sg.rs &&& sg.irs = 0x00#8
  rw_irs : sg.rw &&& sg.irs = 0x00#8
  en_irs : sg.en &&& sg.irs = 0x00#8
  rs_ccs : sg.rs &&& sg.ccs = 0x00#8
  rw_ccs : sg.rw &&& sg.ccs = 0x00#8
  en_ccs : sg.en &&& sg.ccs = 0x00#8
  rs_bcs : sg.rs &&& sg.bcs = 0x00#8
  rw_bcs : sg.rw &&& sg.bcs = 0x00#8
  en_bcs : sg.en &&& sg.bcs = 0x00#8
  rs_ud : sg.rs &&& sg.ud = 0x00#8
  rw_ud : sg.rw &&& sg.ud = 0x00#8
  en_ud : sg.en &&& sg.ud = 0x00#8
  rs_pwr : sg.rs &&& sg.pwr = 0x00#8
  rw_pwr : sg.rw &&& sg.pwr = 0x00#8
  en_pwr : sg.en &&& sg.pwr = 0x00#8
  irs_ccs : sg.irs &&& sg.ccs = 0x00#8
  irs_bcs : sg.irs &&& sg.bcs = 0x00#8
  irs_ud : sg.irs &&& sg.ud = 0x00#8
  irs_pwr : sg.irs &&& sg.pwr = 0x00#8
  ccs_bcs : sg.ccs &&& sg.bcs = 0x00#8
  ccs_ud : sg.ccs &&& sg.ud = 0x00#8
  ccs_pwr : sg.ccs &&& sg.pwr = 0x00#8
  bcs_ud : sg.bcs &&& sg.ud = 0x00#8
  bcs_pwr : sg.bcs &&& sg.pwr = 0x00#8
  ud_pwr : sg.ud &&& sg.pwr = 0x00#8

theorem SigMap.wf_disjoint {sg : SigMap} (h : sg.wf = true) : sg.Disjoint := by
  simp only [SigMap.wf, SigMap.masks, List.all_cons, List.all_nil, Bool.and_true, Bool.and_eq_true, decide_eq_true_eq,
    List.nodup_cons, List.mem_cons, List.not_mem_nil, or_false, not_or, not_false_eq_true, List.nodup_nil, and_true] at h
  obtain ⟨⟨a1, a2, a3, a4, a5, a6, a7, a8⟩, ⟨b12, b13, b14, b15, b16, b17, b18⟩, ⟨b23, b24, b25, b26, b27, b28⟩,
    ⟨b34, b35, b36, b37, b38⟩, ⟨b45, b46, b47, b48⟩, ⟨b56, b57, b58⟩, ⟨b67, b68⟩, b78⟩ := h
  constructor <;> apply oneBit_disjoint <;> assumption

end Sys2Proof
end

