-- ==== Sys2Proof/Laws/State.lean ====
section
/-! SUPPORT. One lemma per field and named update of the state, so that no proof unfolds a record update. -/

namespace Sys2Proof.Machine

variable (s : State)

@[simp] theorem State.emit_cfg (e : Event) : (s.emit e).cfg = s.cfg := rfl
@[simp] theorem State.emit_geom (e : Event) : (s.emit e).geom = s.geom := rfl
@[simp] theorem State.emit_shadow (e : Event) : (s.emit e).shadow = s.shadow := rfl
@[simp] theorem State.emit_dirControl (e : Event) : (s.emit e).dirControl = s.dirControl := rfl
@[simp] theorem State.emit_dirData (e : Event) : (s.emit e).dirData = s.dirData := rfl
@[simp] theorem State.emit_cs (e : Event) : (s.emit e).cs = s.cs := rfl
@[simp] theorem State.emit_col (e : Event) : (s.emit e).col = s.col := rfl
@[simp] theorem State.emit_row (e : Event) : (s.emit e).row = s.row := rfl
@[simp] theorem State.emit_waitMode (e : Event) : (s.emit e).waitMode = s.waitMode := rfl
@[simp] theorem State.emit_ctrl (e : Event) : (s.emit e).ctrl = s.ctrl := rfl
@[simp] theorem State.emit_powered (e : Event) : (s.emit e).powered = s.powered := rfl
@[simp] theorem State.emit_contrast (e : Event) : (s.emit e).contrast = s.contrast := rfl
@[simp] theorem State.emit_backlight (e : Event) : (s.emit e).backlight = s.backlight := rfl
@[simp] theorem State.emit_closed (e : Event) : (s.emit e).closed = s.closed := rfl
@[simp] theorem State.emit_faulted (e : Event) : (s.emit e).faulted = s.faulted := rfl
@[simp] theorem State.emit_seq (e : Event) : (s.emit e).seq = s.seq := rfl
@[simp] theorem State.emit_out (e : Event) : (s.emit e).out = s.out := rfl
@[simp] theorem State.emit_response (e : Event) : (s.emit e).response = s.response := rfl
@[simp] theorem State.emit_trace (e : Event) : (s.emit e).trace = s.trace ++ [e] := rfl
@[simp] theorem State.emit_queue (e : Event) : (s.emit e).queue = s.queue := rfl
@[simp] theorem State.emit_inputs (e : Event) : (s.emit e).inputs = s.inputs := rfl
@[simp] theorem State.emit_reads (e : Event) : (s.emit e).reads = s.reads := rfl
@[simp] theorem State.emit_faultIn (e : Event) : (s.emit e).faultIn = s.faultIn := rfl

@[simp] theorem State.setShadow_cfg (v : Byte) : (s.setShadow v).cfg = s.cfg := rfl
@[simp] theorem State.setShadow_geom (v : Byte) : (s.setShadow v).geom = s.geom := rfl
@[simp] theorem State.setShadow_shadow (v : Byte) : (s.setShadow v).shadow = v := rfl
@[simp] theorem State.setShadow_dirControl (v : Byte) : (s.setShadow v).dirControl = s.dirControl := rfl
@[simp] theorem State.setShadow_dirData (v : Byte) : (s.setShadow v).dirData = s.dirData := rfl
@[simp] theorem State.setShadow_cs (v : Byte) : (s.setShadow v).cs = s.cs := rfl
@[simp] theorem State.setShadow_col (v : Byte) : (s.setShadow v).col = s.col := rfl
@[simp] theorem State.setShadow_row (v : Byte) : (s.setShadow v).row = s.row := rfl
@[simp] theorem State.setShadow_waitMode (v : Byte) : (s.setShadow v).waitMode = s.waitMode := rfl
@[simp] theorem State.setShadow_ctrl (v : Byte) : (s.setShadow v).ctrl = s.ctrl := rfl
@[simp] theorem State.setShadow_powered (v : Byte) : (s.setShadow v).powered = s.powered := rfl
@[simp] theorem State.setShadow_contrast (v : Byte) : (s.setShadow v).contrast = s.contrast := rfl
@[simp] theorem State.setShadow_backlight (v : Byte) : (s.setShadow v).backlight = s.backlight := rfl
@[simp] theorem State.setShadow_closed (v : Byte) : (s.setShadow v).closed = s.closed := rfl
@[simp] theorem State.setShadow_faulted (v : Byte) : (s.setShadow v).faulted = s.faulted := rfl
@[simp] theorem State.setShadow_seq (v : Byte) : (s.setShadow v).seq = s.seq := rfl
@[simp] theorem State.setShadow_out (v : Byte) : (s.setShadow v).out = s.out := rfl
@[simp] theorem State.setShadow_response (v : Byte) : (s.setShadow v).response = s.response := rfl
@[simp] theorem State.setShadow_trace (v : Byte) : (s.setShadow v).trace = s.trace := rfl
@[simp] theorem State.setShadow_queue (v : Byte) : (s.setShadow v).queue = s.queue := rfl
@[simp] theorem State.setShadow_inputs (v : Byte) : (s.setShadow v).inputs = s.inputs := rfl
@[simp] theorem State.setShadow_reads (v : Byte) : (s.setShadow v).reads = s.reads := rfl
@[simp] theorem State.setShadow_faultIn (v : Byte) : (s.setShadow v).faultIn = s.faultIn := rfl

@[simp] theorem State.record_cfg (op : LcdOp) (v : Byte) : (s.record op v).cfg = s.cfg := rfl
@[simp] theorem State.record_geom (op : LcdOp) (v : Byte) : (s.record op v).geom = s.geom := rfl
@[simp] theorem State.record_shadow (op : LcdOp) (v : Byte) : (s.record op v).shadow = s.shadow := rfl
@[simp] theorem State.record_dirControl (op : LcdOp) (v : Byte) : (s.record op v).dirControl = s.dirControl := rfl
@[simp] theorem State.record_dirData (op : LcdOp) (v : Byte) : (s.record op v).dirData = s.dirData := rfl
@[simp] theorem State.record_cs (op : LcdOp) (v : Byte) : (s.record op v).cs = s.cs.set op v := rfl
@[simp] theorem State.record_col (op : LcdOp) (v : Byte) : (s.record op v).col = s.col := rfl
@[simp] theorem State.record_row (op : LcdOp) (v : Byte) : (s.record op v).row = s.row := rfl
@[simp] theorem State.record_waitMode (op : LcdOp) (v : Byte) : (s.record op v).waitMode = s.waitMode := rfl
@[simp] theorem State.record_ctrl (op : LcdOp) (v : Byte) : (s.record op v).ctrl = s.ctrl := rfl
@[simp] theorem State.record_powered (op : LcdOp) (v : Byte) : (s.record op v).powered = s.powered := rfl
@[simp] theorem State.record_contrast (op : LcdOp) (v : Byte) : (s.record op v).contrast = s.contrast := rfl
@[simp] theorem State.record_backlight (op : LcdOp) (v : Byte) : (s.record op v).backlight = s.backlight := rfl
@[simp] theorem State.record_closed (op : LcdOp) (v : Byte) : (s.record op v).closed = s.closed := rfl
@[simp] theorem State.record_faulted (op : LcdOp) (v : Byte) : (s.record op v).faulted = s.faulted := rfl
@[simp] theorem State.record_seq (op : LcdOp) (v : Byte) : (s.record op v).seq = s.seq := rfl
@[simp] theorem State.record_out (op : LcdOp) (v : Byte) : (s.record op v).out = s.out := rfl
@[simp] theorem State.record_response (op : LcdOp) (v : Byte) : (s.record op v).response = s.response := rfl
@[simp] theorem State.record_trace (op : LcdOp) (v : Byte) : (s.record op v).trace = s.trace := rfl
@[simp] theorem State.record_queue (op : LcdOp) (v : Byte) : (s.record op v).queue = s.queue := rfl
@[simp] theorem State.record_inputs (op : LcdOp) (v : Byte) : (s.record op v).inputs = s.inputs := rfl
@[simp] theorem State.record_reads (op : LcdOp) (v : Byte) : (s.record op v).reads = s.reads := rfl
@[simp] theorem State.record_faultIn (op : LcdOp) (v : Byte) : (s.record op v).faultIn = s.faultIn := rfl

@[simp] theorem State.setCursor_cfg (c r : Nat) : (s.setCursor c r).cfg = s.cfg := rfl
@[simp] theorem State.setCursor_geom (c r : Nat) : (s.setCursor c r).geom = s.geom := rfl
@[simp] theorem State.setCursor_shadow (c r : Nat) : (s.setCursor c r).shadow = s.shadow := rfl
@[simp] theorem State.setCursor_dirControl (c r : Nat) : (s.setCursor c r).dirControl = s.dirControl := rfl
@[simp] theorem State.setCursor_dirData (c r : Nat) : (s.setCursor c r).dirData = s.dirData := rfl
@[simp] theorem State.setCursor_cs (c r : Nat) : (s.setCursor c r).cs = s.cs := rfl
@[simp] theorem State.setCursor_col (c r : Nat) : (s.setCursor c r).col = c := rfl
@[simp] theorem State.setCursor_row (c r : Nat) : (s.setCursor c r).row = r := rfl
@[simp] theorem State.setCursor_waitMode (c r : Nat) : (s.setCursor c r).waitMode = s.waitMode := rfl
@[simp] theorem State.setCursor_ctrl (c r : Nat) : (s.setCursor c r).ctrl = s.ctrl := rfl
@[simp] theorem State.setCursor_powered (c r : Nat) : (s.setCursor c r).powered = s.powered := rfl
@[simp] theorem State.setCursor_contrast (c r : Nat) : (s.setCursor c r).contrast = s.contrast := rfl
@[simp] theorem State.setCursor_backlight (c r : Nat) : (s.setCursor c r).backlight = s.backlight := rfl
@[simp] theorem State.setCursor_closed (c r : Nat) : (s.setCursor c r).closed = s.closed := rfl
@[simp] theorem State.setCursor_faulted (c r : Nat) : (s.setCursor c r).faulted = s.faulted := rfl
@[simp] theorem State.setCursor_seq (c r : Nat) : (s.setCursor c r).seq = s.seq := rfl
@[simp] theorem State.setCursor_out (c r : Nat) : (s.setCursor c r).out = s.out := rfl
@[simp] theorem State.setCursor_response (c r : Nat) : (s.setCursor c r).response = s.response := rfl
@[simp] theorem State.setCursor_trace (c r : Nat) : (s.setCursor c r).trace = s.trace := rfl
@[simp] theorem State.setCursor_queue (c r : Nat) : (s.setCursor c r).queue = s.queue := rfl
@[simp] theorem State.setCursor_inputs (c r : Nat) : (s.setCursor c r).inputs = s.inputs := rfl
@[simp] theorem State.setCursor_reads (c r : Nat) : (s.setCursor c r).reads = s.reads := rfl
@[simp] theorem State.setCursor_faultIn (c r : Nat) : (s.setCursor c r).faultIn = s.faultIn := rfl

@[simp] theorem State.setMode_cfg (m : WaitMode) : (s.setMode m).cfg = s.cfg := rfl
@[simp] theorem State.setMode_geom (m : WaitMode) : (s.setMode m).geom = s.geom := rfl
@[simp] theorem State.setMode_shadow (m : WaitMode) : (s.setMode m).shadow = s.shadow := rfl
@[simp] theorem State.setMode_dirControl (m : WaitMode) : (s.setMode m).dirControl = s.dirControl := rfl
@[simp] theorem State.setMode_dirData (m : WaitMode) : (s.setMode m).dirData = s.dirData := rfl
@[simp] theorem State.setMode_cs (m : WaitMode) : (s.setMode m).cs = s.cs := rfl
@[simp] theorem State.setMode_col (m : WaitMode) : (s.setMode m).col = s.col := rfl
@[simp] theorem State.setMode_row (m : WaitMode) : (s.setMode m).row = s.row := rfl
@[simp] theorem State.setMode_waitMode (m : WaitMode) : (s.setMode m).waitMode = m := rfl
@[simp] theorem State.setMode_ctrl (m : WaitMode) : (s.setMode m).ctrl = s.ctrl := rfl
@[simp] theorem State.setMode_powered (m : WaitMode) : (s.setMode m).powered = s.powered := rfl
@[simp] theorem State.setMode_contrast (m : WaitMode) : (s.setMode m).contrast = s.contrast := rfl
@[simp] theorem State.setMode_backlight (m : WaitMode) : (s.setMode m).backlight = s.backlight := rfl
@[simp] theorem State.setMode_closed (m : WaitMode) : (s.setMode m).closed = s.closed := rfl
@[simp] theorem State.setMode_faulted (m : WaitMode) : (s.setMode m).faulted = s.faulted := rfl
@[simp] theorem State.setMode_seq (m : WaitMode) : (s.setMode m).seq = s.seq := rfl
@[simp] theorem State.setMode_out (m : WaitMode) : (s.setMode m).out = s.out := rfl
@[simp] theorem State.setMode_response (m : WaitMode) : (s.setMode m).response = s.response := rfl
@[simp] theorem State.setMode_trace (m : WaitMode) : (s.setMode m).trace = s.trace := rfl
@[simp] theorem State.setMode_queue (m : WaitMode) : (s.setMode m).queue = s.queue := rfl
@[simp] theorem State.setMode_inputs (m : WaitMode) : (s.setMode m).inputs = s.inputs := rfl
@[simp] theorem State.setMode_reads (m : WaitMode) : (s.setMode m).reads = s.reads := rfl
@[simp] theorem State.setMode_faultIn (m : WaitMode) : (s.setMode m).faultIn = s.faultIn := rfl

@[simp] theorem State.setCtrl_cfg (c : Ctrl) : (s.setCtrl c).cfg = s.cfg := rfl
@[simp] theorem State.setCtrl_geom (c : Ctrl) : (s.setCtrl c).geom = s.geom := rfl
@[simp] theorem State.setCtrl_shadow (c : Ctrl) : (s.setCtrl c).shadow = s.shadow := rfl
@[simp] theorem State.setCtrl_dirControl (c : Ctrl) : (s.setCtrl c).dirControl = s.dirControl := rfl
@[simp] theorem State.setCtrl_dirData (c : Ctrl) : (s.setCtrl c).dirData = s.dirData := rfl
@[simp] theorem State.setCtrl_cs (c : Ctrl) : (s.setCtrl c).cs = s.cs := rfl
@[simp] theorem State.setCtrl_col (c : Ctrl) : (s.setCtrl c).col = s.col := rfl
@[simp] theorem State.setCtrl_row (c : Ctrl) : (s.setCtrl c).row = s.row := rfl
@[simp] theorem State.setCtrl_waitMode (c : Ctrl) : (s.setCtrl c).waitMode = s.waitMode := rfl
@[simp] theorem State.setCtrl_ctrl (c : Ctrl) : (s.setCtrl c).ctrl = c := rfl
@[simp] theorem State.setCtrl_powered (c : Ctrl) : (s.setCtrl c).powered = s.powered := rfl
@[simp] theorem State.setCtrl_contrast (c : Ctrl) : (s.setCtrl c).contrast = s.contrast := rfl
@[simp] theorem State.setCtrl_backlight (c : Ctrl) : (s.setCtrl c).backlight = s.backlight := rfl
@[simp] theorem State.setCtrl_closed (c : Ctrl) : (s.setCtrl c).closed = s.closed := rfl
@[simp] theorem State.setCtrl_faulted (c : Ctrl) : (s.setCtrl c).faulted = s.faulted := rfl
@[simp] theorem State.setCtrl_seq (c : Ctrl) : (s.setCtrl c).seq = s.seq := rfl
@[simp] theorem State.setCtrl_out (c : Ctrl) : (s.setCtrl c).out = s.out := rfl
@[simp] theorem State.setCtrl_response (c : Ctrl) : (s.setCtrl c).response = s.response := rfl
@[simp] theorem State.setCtrl_trace (c : Ctrl) : (s.setCtrl c).trace = s.trace := rfl
@[simp] theorem State.setCtrl_queue (c : Ctrl) : (s.setCtrl c).queue = s.queue := rfl
@[simp] theorem State.setCtrl_inputs (c : Ctrl) : (s.setCtrl c).inputs = s.inputs := rfl
@[simp] theorem State.setCtrl_reads (c : Ctrl) : (s.setCtrl c).reads = s.reads := rfl
@[simp] theorem State.setCtrl_faultIn (c : Ctrl) : (s.setCtrl c).faultIn = s.faultIn := rfl

@[simp] theorem State.setPowered_cfg (b : Bool) : (s.setPowered b).cfg = s.cfg := rfl
@[simp] theorem State.setPowered_geom (b : Bool) : (s.setPowered b).geom = s.geom := rfl
@[simp] theorem State.setPowered_shadow (b : Bool) : (s.setPowered b).shadow = s.shadow := rfl
@[simp] theorem State.setPowered_dirControl (b : Bool) : (s.setPowered b).dirControl = s.dirControl := rfl
@[simp] theorem State.setPowered_dirData (b : Bool) : (s.setPowered b).dirData = s.dirData := rfl
@[simp] theorem State.setPowered_cs (b : Bool) : (s.setPowered b).cs = s.cs := rfl
@[simp] theorem State.setPowered_col (b : Bool) : (s.setPowered b).col = s.col := rfl
@[simp] theorem State.setPowered_row (b : Bool) : (s.setPowered b).row = s.row := rfl
@[simp] theorem State.setPowered_waitMode (b : Bool) : (s.setPowered b).waitMode = s.waitMode := rfl
@[simp] theorem State.setPowered_ctrl (b : Bool) : (s.setPowered b).ctrl = s.ctrl := rfl
@[simp] theorem State.setPowered_powered (b : Bool) : (s.setPowered b).powered = b := rfl
@[simp] theorem State.setPowered_contrast (b : Bool) : (s.setPowered b).contrast = s.contrast := rfl
@[simp] theorem State.setPowered_backlight (b : Bool) : (s.setPowered b).backlight = s.backlight := rfl
@[simp] theorem State.setPowered_closed (b : Bool) : (s.setPowered b).closed = s.closed := rfl
@[simp] theorem State.setPowered_faulted (b : Bool) : (s.setPowered b).faulted = s.faulted := rfl
@[simp] theorem State.setPowered_seq (b : Bool) : (s.setPowered b).seq = s.seq := rfl
@[simp] theorem State.setPowered_out (b : Bool) : (s.setPowered b).out = s.out := rfl
@[simp] theorem State.setPowered_response (b : Bool) : (s.setPowered b).response = s.response := rfl
@[simp] theorem State.setPowered_trace (b : Bool) : (s.setPowered b).trace = s.trace := rfl
@[simp] theorem State.setPowered_queue (b : Bool) : (s.setPowered b).queue = s.queue := rfl
@[simp] theorem State.setPowered_inputs (b : Bool) : (s.setPowered b).inputs = s.inputs := rfl
@[simp] theorem State.setPowered_reads (b : Bool) : (s.setPowered b).reads = s.reads := rfl
@[simp] theorem State.setPowered_faultIn (b : Bool) : (s.setPowered b).faultIn = s.faultIn := rfl

@[simp] theorem State.setClosed_cfg : s.setClosed.cfg = s.cfg := rfl
@[simp] theorem State.setClosed_geom : s.setClosed.geom = s.geom := rfl
@[simp] theorem State.setClosed_shadow : s.setClosed.shadow = s.shadow := rfl
@[simp] theorem State.setClosed_dirControl : s.setClosed.dirControl = s.dirControl := rfl
@[simp] theorem State.setClosed_dirData : s.setClosed.dirData = s.dirData := rfl
@[simp] theorem State.setClosed_cs : s.setClosed.cs = s.cs := rfl
@[simp] theorem State.setClosed_col : s.setClosed.col = s.col := rfl
@[simp] theorem State.setClosed_row : s.setClosed.row = s.row := rfl
@[simp] theorem State.setClosed_waitMode : s.setClosed.waitMode = s.waitMode := rfl
@[simp] theorem State.setClosed_ctrl : s.setClosed.ctrl = s.ctrl := rfl
@[simp] theorem State.setClosed_powered : s.setClosed.powered = s.powered := rfl
@[simp] theorem State.setClosed_contrast : s.setClosed.contrast = s.contrast := rfl
@[simp] theorem State.setClosed_backlight : s.setClosed.backlight = s.backlight := rfl
@[simp] theorem State.setClosed_closed : s.setClosed.closed = true := rfl
@[simp] theorem State.setClosed_faulted : s.setClosed.faulted = s.faulted := rfl
@[simp] theorem State.setClosed_seq : s.setClosed.seq = s.seq := rfl
@[simp] theorem State.setClosed_out : s.setClosed.out = s.out := rfl
@[simp] theorem State.setClosed_response : s.setClosed.response = s.response := rfl
@[simp] theorem State.setClosed_trace : s.setClosed.trace = s.trace := rfl
@[simp] theorem State.setClosed_queue : s.setClosed.queue = s.queue := rfl
@[simp] theorem State.setClosed_inputs : s.setClosed.inputs = s.inputs := rfl
@[simp] theorem State.setClosed_reads : s.setClosed.reads = s.reads := rfl
@[simp] theorem State.setClosed_faultIn : s.setClosed.faultIn = s.faultIn := rfl

@[simp] theorem State.setFaulted_cfg : s.setFaulted.cfg = s.cfg := rfl
@[simp] theorem State.setFaulted_geom : s.setFaulted.geom = s.geom := rfl
@[simp] theorem State.setFaulted_shadow : s.setFaulted.shadow = s.shadow := rfl
@[simp] theorem State.setFaulted_dirControl : s.setFaulted.dirControl = s.dirControl := rfl
@[simp] theorem State.setFaulted_dirData : s.setFaulted.dirData = s.dirData := rfl
@[simp] theorem State.setFaulted_cs : s.setFaulted.cs = s.cs := rfl
@[simp] theorem State.setFaulted_col : s.setFaulted.col = s.col := rfl
@[simp] theorem State.setFaulted_row : s.setFaulted.row = s.row := rfl
@[simp] theorem State.setFaulted_waitMode : s.setFaulted.waitMode = s.waitMode := rfl
@[simp] theorem State.setFaulted_ctrl : s.setFaulted.ctrl = s.ctrl := rfl
@[simp] theorem State.setFaulted_powered : s.setFaulted.powered = s.powered := rfl
@[simp] theorem State.setFaulted_contrast : s.setFaulted.contrast = s.contrast := rfl
@[simp] theorem State.setFaulted_backlight : s.setFaulted.backlight = s.backlight := rfl
@[simp] theorem State.setFaulted_closed : s.setFaulted.closed = s.closed := rfl
@[simp] theorem State.setFaulted_faulted : s.setFaulted.faulted = true := rfl
@[simp] theorem State.setFaulted_seq : s.setFaulted.seq = s.seq := rfl
@[simp] theorem State.setFaulted_out : s.setFaulted.out = s.out := rfl
@[simp] theorem State.setFaulted_response : s.setFaulted.response = s.response := rfl
@[simp] theorem State.setFaulted_trace : s.setFaulted.trace = s.trace := rfl
@[simp] theorem State.setFaulted_queue : s.setFaulted.queue = s.queue := rfl
@[simp] theorem State.setFaulted_inputs : s.setFaulted.inputs = s.inputs := rfl
@[simp] theorem State.setFaulted_reads : s.setFaulted.reads = s.reads := rfl
@[simp] theorem State.setFaulted_faultIn : s.setFaulted.faultIn = s.faultIn := rfl

@[simp] theorem State.setSeq_cfg (ms : List Micro) : (s.setSeq ms).cfg = s.cfg := rfl
@[simp] theorem State.setSeq_geom (ms : List Micro) : (s.setSeq ms).geom = s.geom := rfl
@[simp] theorem State.setSeq_shadow (ms : List Micro) : (s.setSeq ms).shadow = s.shadow := rfl
@[simp] theorem State.setSeq_dirControl (ms : List Micro) : (s.setSeq ms).dirControl = s.dirControl := rfl
@[simp] theorem State.setSeq_dirData (ms : List Micro) : (s.setSeq ms).dirData = s.dirData := rfl
@[simp] theorem State.setSeq_cs (ms : List Micro) : (s.setSeq ms).cs = s.cs := rfl
@[simp] theorem State.setSeq_col (ms : List Micro) : (s.setSeq ms).col = s.col := rfl
@[simp] theorem State.setSeq_row (ms : List Micro) : (s.setSeq ms).row = s.row := rfl
@[simp] theorem State.setSeq_waitMode (ms : List Micro) : (s.setSeq ms).waitMode = s.waitMode := rfl
@[simp] theorem State.setSeq_ctrl (ms : List Micro) : (s.setSeq ms).ctrl = s.ctrl := rfl
@[simp] theorem State.setSeq_powered (ms : List Micro) : (s.setSeq ms).powered = s.powered := rfl
@[simp] theorem State.setSeq_contrast (ms : List Micro) : (s.setSeq ms).contrast = s.contrast := rfl
@[simp] theorem State.setSeq_backlight (ms : List Micro) : (s.setSeq ms).backlight = s.backlight := rfl
@[simp] theorem State.setSeq_closed (ms : List Micro) : (s.setSeq ms).closed = s.closed := rfl
@[simp] theorem State.setSeq_faulted (ms : List Micro) : (s.setSeq ms).faulted = s.faulted := rfl
@[simp] theorem State.setSeq_seq (ms : List Micro) : (s.setSeq ms).seq = ms := rfl
@[simp] theorem State.setSeq_out (ms : List Micro) : (s.setSeq ms).out = s.out := rfl
@[simp] theorem State.setSeq_response (ms : List Micro) : (s.setSeq ms).response = s.response := rfl
@[simp] theorem State.setSeq_trace (ms : List Micro) : (s.setSeq ms).trace = s.trace := rfl
@[simp] theorem State.setSeq_queue (ms : List Micro) : (s.setSeq ms).queue = s.queue := rfl
@[simp] theorem State.setSeq_inputs (ms : List Micro) : (s.setSeq ms).inputs = s.inputs := rfl
@[simp] theorem State.setSeq_reads (ms : List Micro) : (s.setSeq ms).reads = s.reads := rfl
@[simp] theorem State.setSeq_faultIn (ms : List Micro) : (s.setSeq ms).faultIn = s.faultIn := rfl

@[simp] theorem State.pushOut_cfg (v : Byte) : (s.pushOut v).cfg = s.cfg := rfl
@[simp] theorem State.pushOut_geom (v : Byte) : (s.pushOut v).geom = s.geom := rfl
@[simp] theorem State.pushOut_shadow (v : Byte) : (s.pushOut v).shadow = s.shadow := rfl
@[simp] theorem State.pushOut_dirControl (v : Byte) : (s.pushOut v).dirControl = s.dirControl := rfl
@[simp] theorem State.pushOut_dirData (v : Byte) : (s.pushOut v).dirData = s.dirData := rfl
@[simp] theorem State.pushOut_cs (v : Byte) : (s.pushOut v).cs = s.cs := rfl
@[simp] theorem State.pushOut_col (v : Byte) : (s.pushOut v).col = s.col := rfl
@[simp] theorem State.pushOut_row (v : Byte) : (s.pushOut v).row = s.row := rfl
@[simp] theorem State.pushOut_waitMode (v : Byte) : (s.pushOut v).waitMode = s.waitMode := rfl
@[simp] theorem State.pushOut_ctrl (v : Byte) : (s.pushOut v).ctrl = s.ctrl := rfl
@[simp] theorem State.pushOut_powered (v : Byte) : (s.pushOut v).powered = s.powered := rfl
@[simp] theorem State.pushOut_contrast (v : Byte) : (s.pushOut v).contrast = s.contrast := rfl
@[simp] theorem State.pushOut_backlight (v : Byte) : (s.pushOut v).backlight = s.backlight := rfl
@[simp] theorem State.pushOut_closed (v : Byte) : (s.pushOut v).closed = s.closed := rfl
@[simp] theorem State.pushOut_faulted (v : Byte) : (s.pushOut v).faulted = s.faulted := rfl
@[simp] theorem State.pushOut_seq (v : Byte) : (s.pushOut v).seq = s.seq := rfl
@[simp] theorem State.pushOut_out (v : Byte) : (s.pushOut v).out = s.out ++ [v] := rfl
@[simp] theorem State.pushOut_response (v : Byte) : (s.pushOut v).response = s.response := rfl
@[simp] theorem State.pushOut_trace (v : Byte) : (s.pushOut v).trace = s.trace := rfl
@[simp] theorem State.pushOut_queue (v : Byte) : (s.pushOut v).queue = s.queue := rfl
@[simp] theorem State.pushOut_inputs (v : Byte) : (s.pushOut v).inputs = s.inputs := rfl
@[simp] theorem State.pushOut_reads (v : Byte) : (s.pushOut v).reads = s.reads := rfl
@[simp] theorem State.pushOut_faultIn (v : Byte) : (s.pushOut v).faultIn = s.faultIn := rfl

@[simp] theorem State.answer_cfg (r : Response) : (s.answer r).cfg = s.cfg := rfl
@[simp] theorem State.answer_geom (r : Response) : (s.answer r).geom = s.geom := rfl
@[simp] theorem State.answer_shadow (r : Response) : (s.answer r).shadow = s.shadow := rfl
@[simp] theorem State.answer_dirControl (r : Response) : (s.answer r).dirControl = s.dirControl := rfl
@[simp] theorem State.answer_dirData (r : Response) : (s.answer r).dirData = s.dirData := rfl
@[simp] theorem State.answer_cs (r : Response) : (s.answer r).cs = s.cs := rfl
@[simp] theorem State.answer_col (r : Response) : (s.answer r).col = s.col := rfl
@[simp] theorem State.answer_row (r : Response) : (s.answer r).row = s.row := rfl
@[simp] theorem State.answer_waitMode (r : Response) : (s.answer r).waitMode = s.waitMode := rfl
@[simp] theorem State.answer_ctrl (r : Response) : (s.answer r).ctrl = s.ctrl := rfl
@[simp] theorem State.answer_powered (r : Response) : (s.answer r).powered = s.powered := rfl
@[simp] theorem State.answer_contrast (r : Response) : (s.answer r).contrast = s.contrast := rfl
@[simp] theorem State.answer_backlight (r : Response) : (s.answer r).backlight = s.backlight := rfl
@[simp] theorem State.answer_closed (r : Response) : (s.answer r).closed = s.closed := rfl
@[simp] theorem State.answer_faulted (r : Response) : (s.answer r).faulted = s.faulted := rfl
@[simp] theorem State.answer_seq (r : Response) : (s.answer r).seq = [] := rfl
@[simp] theorem State.answer_out (r : Response) : (s.answer r).out = [] := rfl
@[simp] theorem State.answer_response (r : Response) : (s.answer r).response = some r := rfl
@[simp] theorem State.answer_trace (r : Response) : (s.answer r).trace = s.trace := rfl
@[simp] theorem State.answer_queue (r : Response) : (s.answer r).queue = s.queue := rfl
@[simp] theorem State.answer_inputs (r : Response) : (s.answer r).inputs = s.inputs := rfl
@[simp] theorem State.answer_reads (r : Response) : (s.answer r).reads = s.reads := rfl
@[simp] theorem State.answer_faultIn (r : Response) : (s.answer r).faultIn = s.faultIn := rfl

@[simp] theorem State.begin_cfg : s.begin.cfg = s.cfg := rfl
@[simp] theorem State.begin_geom : s.begin.geom = s.geom := rfl
@[simp] theorem State.begin_shadow : s.begin.shadow = s.shadow := rfl
@[simp] theorem State.begin_dirControl : s.begin.dirControl = s.dirControl := rfl
@[simp] theorem State.begin_dirData : s.begin.dirData = s.dirData := rfl
@[simp] theorem State.begin_cs : s.begin.cs = s.cs := rfl
@[simp] theorem State.begin_col : s.begin.col = s.col := rfl
@[simp] theorem State.begin_row : s.begin.row = s.row := rfl
@[simp] theorem State.begin_waitMode : s.begin.waitMode = s.waitMode := rfl
@[simp] theorem State.begin_ctrl : s.begin.ctrl = s.ctrl := rfl
@[simp] theorem State.begin_powered : s.begin.powered = s.powered := rfl
@[simp] theorem State.begin_contrast : s.begin.contrast = s.contrast := rfl
@[simp] theorem State.begin_backlight : s.begin.backlight = s.backlight := rfl
@[simp] theorem State.begin_closed : s.begin.closed = s.closed := rfl
@[simp] theorem State.begin_faulted : s.begin.faulted = s.faulted := rfl
@[simp] theorem State.begin_seq : s.begin.seq = [] := rfl
@[simp] theorem State.begin_out : s.begin.out = [] := rfl
@[simp] theorem State.begin_response : s.begin.response = none := rfl
@[simp] theorem State.begin_trace : s.begin.trace = [] := rfl
@[simp] theorem State.begin_queue : s.begin.queue = s.queue := rfl
@[simp] theorem State.begin_inputs : s.begin.inputs = s.inputs := rfl
@[simp] theorem State.begin_reads : s.begin.reads = s.reads := rfl
@[simp] theorem State.begin_faultIn : s.begin.faultIn = s.faultIn := rfl

@[simp] theorem State.setQueue_cfg (q : List Code) : (s.setQueue q).cfg = s.cfg := rfl
@[simp] theorem State.setQueue_geom (q : List Code) : (s.setQueue q).geom = s.geom := rfl
@[simp] theorem State.setQueue_shadow (q : List Code) : (s.setQueue q).shadow = s.shadow := rfl
@[simp] theorem State.setQueue_dirControl (q : List Code) : (s.setQueue q).dirControl = s.dirControl := rfl
@[simp] theorem State.setQueue_dirData (q : List Code) : (s.setQueue q).dirData = s.dirData := rfl
@[simp] theorem State.setQueue_cs (q : List Code) : (s.setQueue q).cs = s.cs := rfl
@[simp] theorem State.setQueue_col (q : List Code) : (s.setQueue q).col = s.col := rfl
@[simp] theorem State.setQueue_row (q : List Code) : (s.setQueue q).row = s.row := rfl
@[simp] theorem State.setQueue_waitMode (q : List Code) : (s.setQueue q).waitMode = s.waitMode := rfl
@[simp] theorem State.setQueue_ctrl (q : List Code) : (s.setQueue q).ctrl = s.ctrl := rfl
@[simp] theorem State.setQueue_powered (q : List Code) : (s.setQueue q).powered = s.powered := rfl
@[simp] theorem State.setQueue_contrast (q : List Code) : (s.setQueue q).contrast = s.contrast := rfl
@[simp] theorem State.setQueue_backlight (q : List Code) : (s.setQueue q).backlight = s.backlight := rfl
@[simp] theorem State.setQueue_closed (q : List Code) : (s.setQueue q).closed = s.closed := rfl
@[simp] theorem State.setQueue_faulted (q : List Code) : (s.setQueue q).faulted = s.faulted := rfl
@[simp] theorem State.setQueue_seq (q : List Code) : (s.setQueue q).seq = s.seq := rfl
@[simp] theorem State.setQueue_out (q : List Code) : (s.setQueue q).out = s.out := rfl
@[simp] theorem State.setQueue_response (q : List Code) : (s.setQueue q).response = s.response := rfl
@[simp] theorem State.setQueue_trace (q : List Code) : (s.setQueue q).trace = s.trace := rfl
@[simp] theorem State.setQueue_queue (q : List Code) : (s.setQueue q).queue = q := rfl
@[simp] theorem State.setQueue_inputs (q : List Code) : (s.setQueue q).inputs = s.inputs := rfl
@[simp] theorem State.setQueue_reads (q : List Code) : (s.setQueue q).reads = s.reads := rfl
@[simp] theorem State.setQueue_faultIn (q : List Code) : (s.setQueue q).faultIn = s.faultIn := rfl

@[simp] theorem State.takeInput_cfg : s.takeInput.cfg = s.cfg := rfl
@[simp] theorem State.takeInput_geom : s.takeInput.geom = s.geom := rfl
@[simp] theorem State.takeInput_shadow : s.takeInput.shadow = s.shadow := rfl
@[simp] theorem State.takeInput_dirControl : s.takeInput.dirControl = s.dirControl := rfl
@[simp] theorem State.takeInput_dirData : s.takeInput.dirData = s.dirData := rfl
@[simp] theorem State.takeInput_cs : s.takeInput.cs = s.cs := rfl
@[simp] theorem State.takeInput_col : s.takeInput.col = s.col := rfl
@[simp] theorem State.takeInput_row : s.takeInput.row = s.row := rfl
@[simp] theorem State.takeInput_waitMode : s.takeInput.waitMode = s.waitMode := rfl
@[simp] theorem State.takeInput_ctrl : s.takeInput.ctrl = s.ctrl := rfl
@[simp] theorem State.takeInput_powered : s.takeInput.powered = s.powered := rfl
@[simp] theorem State.takeInput_contrast : s.takeInput.contrast = s.contrast := rfl
@[simp] theorem State.takeInput_backlight : s.takeInput.backlight = s.backlight := rfl
@[simp] theorem State.takeInput_closed : s.takeInput.closed = s.closed := rfl
@[simp] theorem State.takeInput_faulted : s.takeInput.faulted = s.faulted := rfl
@[simp] theorem State.takeInput_seq : s.takeInput.seq = s.seq := rfl
@[simp] theorem State.takeInput_out : s.takeInput.out = s.out := rfl
@[simp] theorem State.takeInput_response : s.takeInput.response = s.response := rfl
@[simp] theorem State.takeInput_trace : s.takeInput.trace = s.trace := rfl
@[simp] theorem State.takeInput_queue : s.takeInput.queue = s.queue := rfl
@[simp] theorem State.takeInput_inputs : s.takeInput.inputs = s.inputs.drop 1 := rfl
@[simp] theorem State.takeInput_reads : s.takeInput.reads = s.reads + 1 := rfl
@[simp] theorem State.takeInput_faultIn : s.takeInput.faultIn = s.faultIn := rfl

@[simp] theorem State.setFaultIn_cfg (f : Option Nat) : (s.setFaultIn f).cfg = s.cfg := rfl
@[simp] theorem State.setFaultIn_geom (f : Option Nat) : (s.setFaultIn f).geom = s.geom := rfl
@[simp] theorem State.setFaultIn_shadow (f : Option Nat) : (s.setFaultIn f).shadow = s.shadow := rfl
@[simp] theorem State.setFaultIn_dirControl (f : Option Nat) : (s.setFaultIn f).dirControl = s.dirControl := rfl
@[simp] theorem State.setFaultIn_dirData (f : Option Nat) : (s.setFaultIn f).dirData = s.dirData := rfl
@[simp] theorem State.setFaultIn_cs (f : Option Nat) : (s.setFaultIn f).cs = s.cs := rfl
@[simp] theorem State.setFaultIn_col (f : Option Nat) : (s.setFaultIn f).col = s.col := rfl
@[simp] theorem State.setFaultIn_row (f : Option Nat) : (s.setFaultIn f).row = s.row := rfl
@[simp] theorem State.setFaultIn_waitMode (f : Option Nat) : (s.setFaultIn f).waitMode = s.waitMode := rfl
@[simp] theorem State.setFaultIn_ctrl (f : Option Nat) : (s.setFaultIn f).ctrl = s.ctrl := rfl
@[simp] theorem State.setFaultIn_powered (f : Option Nat) : (s.setFaultIn f).powered = s.powered := rfl
@[simp] theorem State.setFaultIn_contrast (f : Option Nat) : (s.setFaultIn f).contrast = s.contrast := rfl
@[simp] theorem State.setFaultIn_backlight (f : Option Nat) : (s.setFaultIn f).backlight = s.backlight := rfl
@[simp] theorem State.setFaultIn_closed (f : Option Nat) : (s.setFaultIn f).closed = s.closed := rfl
@[simp] theorem State.setFaultIn_faulted (f : Option Nat) : (s.setFaultIn f).faulted = s.faulted := rfl
@[simp] theorem State.setFaultIn_seq (f : Option Nat) : (s.setFaultIn f).seq = s.seq := rfl
@[simp] theorem State.setFaultIn_out (f : Option Nat) : (s.setFaultIn f).out = s.out := rfl
@[simp] theorem State.setFaultIn_response (f : Option Nat) : (s.setFaultIn f).response = s.response := rfl
@[simp] theorem State.setFaultIn_trace (f : Option Nat) : (s.setFaultIn f).trace = s.trace := rfl
@[simp] theorem State.setFaultIn_queue (f : Option Nat) : (s.setFaultIn f).queue = s.queue := rfl
@[simp] theorem State.setFaultIn_inputs (f : Option Nat) : (s.setFaultIn f).inputs = s.inputs := rfl
@[simp] theorem State.setFaultIn_reads (f : Option Nat) : (s.setFaultIn f).reads = s.reads := rfl
@[simp] theorem State.setFaultIn_faultIn (f : Option Nat) : (s.setFaultIn f).faultIn = f := rfl

@[simp] theorem State.setDirOf_cfg (p : Port) (m : Byte) : (s.setDirOf p m).cfg = s.cfg := by cases p <;> rfl
@[simp] theorem State.setDirOf_geom (p : Port) (m : Byte) : (s.setDirOf p m).geom = s.geom := by cases p <;> rfl
@[simp] theorem State.setDirOf_shadow (p : Port) (m : Byte) : (s.setDirOf p m).shadow = s.shadow := by cases p <;> rfl
@[simp] theorem State.setDirOf_cs (p : Port) (m : Byte) : (s.setDirOf p m).cs = s.cs := by cases p <;> rfl
@[simp] theorem State.setDirOf_col (p : Port) (m : Byte) : (s.setDirOf p m).col = s.col := by cases p <;> rfl
@[simp] theorem State.setDirOf_row (p : Port) (m : Byte) : (s.setDirOf p m).row = s.row := by cases p <;> rfl
@[simp] theorem State.setDirOf_waitMode (p : Port) (m : Byte) : (s.setDirOf p m).waitMode = s.waitMode := by cases p <;> rfl
@[simp] theorem State.setDirOf_ctrl (p : Port) (m : Byte) : (s.setDirOf p m).ctrl = s.ctrl := by cases p <;> rfl
@[simp] theorem State.setDirOf_powered (p : Port) (m : Byte) : (s.setDirOf p m).powered = s.powered := by cases p <;> rfl
@[simp] theorem State.setDirOf_contrast (p : Port) (m : Byte) : (s.setDirOf p m).contrast = s.contrast := by cases p <;> rfl
@[simp] theorem State.setDirOf_backlight (p : Port) (m : Byte) : (s.setDirOf p m).backlight = s.backlight := by cases p <;> rfl
@[simp] theorem State.setDirOf_closed (p : Port) (m : Byte) : (s.setDirOf p m).closed = s.closed := by cases p <;> rfl
@[simp] theorem State.setDirOf_faulted (p : Port) (m : Byte) : (s.setDirOf p m).faulted = s.faulted := by cases p <;> rfl
@[simp] theorem State.setDirOf_seq (p : Port) (m : Byte) : (s.setDirOf p m).seq = s.seq := by cases p <;> rfl
@[simp] theorem State.setDirOf_out (p : Port) (m : Byte) : (s.setDirOf p m).out = s.out := by cases p <;> rfl
@[simp] theorem State.setDirOf_response (p : Port) (m : Byte) : (s.setDirOf p m).response = s.response := by cases p <;> rfl
@[simp] theorem State.setDirOf_trace (p : Port) (m : Byte) : (s.setDirOf p m).trace = s.trace := by cases p <;> rfl
@[simp] theorem State.setDirOf_queue (p : Port) (m : Byte) : (s.setDirOf p m).queue = s.queue := by cases p <;> rfl
@[simp] theorem State.setDirOf_inputs (p : Port) (m : Byte) : (s.setDirOf p m).inputs = s.inputs := by cases p <;> rfl
@[simp] theorem State.setDirOf_reads (p : Port) (m : Byte) : (s.setDirOf p m).reads = s.reads := by cases p <;> rfl
@[simp] theorem State.setDirOf_faultIn (p : Port) (m : Byte) : (s.setDirOf p m).faultIn = s.faultIn := by cases p <;> rfl

@[simp] theorem State.setPosOf_cfg (k : Pot) (n : Nat) : (s.setPosOf k n).cfg = s.cfg := by cases k <;> rfl
@[simp] theorem State.setPosOf_geom (k : Pot) (n : Nat) : (s.setPosOf k n).geom = s.geom := by cases k <;> rfl
@[simp] theorem State.setPosOf_shadow (k : Pot) (n : Nat) : (s.setPosOf k n).shadow = s.shadow := by cases k <;> rfl
@[simp] theorem State.setPosOf_dirControl (k : Pot) (n : Nat) : (s.setPosOf k n).dirControl = s.dirControl := by cases k <;> rfl
@[simp] theorem State.setPosOf_dirData (k : Pot) (n : Nat) : (s.setPosOf k n).dirData = s.dirData := by cases k <;> rfl
@[simp] theorem State.setPosOf_cs (k : Pot) (n : Nat) : (s.setPosOf k n).cs = s.cs := by cases k <;> rfl
@[simp] theorem State.setPosOf_col (k : Pot) (n : Nat) : (s.setPosOf k n).col = s.col := by cases k <;> rfl
@[simp] theorem State.setPosOf_row (k : Pot) (n : Nat) : (s.setPosOf k n).row = s.row := by cases k <;> rfl
@[simp] theorem State.setPosOf_waitMode (k : Pot) (n : Nat) : (s.setPosOf k n).waitMode = s.waitMode := by cases k <;> rfl
@[simp] theorem State.setPosOf_ctrl (k : Pot) (n : Nat) : (s.setPosOf k n).ctrl = s.ctrl := by cases k <;> rfl
@[simp] theorem State.setPosOf_powered (k : Pot) (n : Nat) : (s.setPosOf k n).powered = s.powered := by cases k <;> rfl
@[simp] theorem State.setPosOf_closed (k : Pot) (n : Nat) : (s.setPosOf k n).closed = s.closed := by cases k <;> rfl
@[simp] theorem State.setPosOf_faulted (k : Pot) (n : Nat) : (s.setPosOf k n).faulted = s.faulted := by cases k <;> rfl
@[simp] theorem State.setPosOf_seq (k : Pot) (n : Nat) : (s.setPosOf k n).seq = s.seq := by cases k <;> rfl
@[simp] theorem State.setPosOf_out (k : Pot) (n : Nat) : (s.setPosOf k n).out = s.out := by cases k <;> rfl
@[simp] theorem State.setPosOf_response (k : Pot) (n : Nat) : (s.setPosOf k n).response = s.response := by cases k <;> rfl
@[simp] theorem State.setPosOf_trace (k : Pot) (n : Nat) : (s.setPosOf k n).trace = s.trace := by cases k <;> rfl
@[simp] theorem State.setPosOf_queue (k : Pot) (n : Nat) : (s.setPosOf k n).queue = s.queue := by cases k <;> rfl
@[simp] theorem State.setPosOf_inputs (k : Pot) (n : Nat) : (s.setPosOf k n).inputs = s.inputs := by cases k <;> rfl
@[simp] theorem State.setPosOf_reads (k : Pot) (n : Nat) : (s.setPosOf k n).reads = s.reads := by cases k <;> rfl
@[simp] theorem State.setPosOf_faultIn (k : Pot) (n : Nat) : (s.setPosOf k n).faultIn = s.faultIn := by cases k <;> rfl

@[simp] theorem State.setDirOf_control_dirControl (m : Byte) : (s.setDirOf .control m).dirControl = m := rfl
@[simp] theorem State.setDirOf_control_dirData (m : Byte) : (s.setDirOf .control m).dirData = s.dirData := rfl
@[simp] theorem State.setDirOf_data_dirControl (m : Byte) : (s.setDirOf .data m).dirControl = s.dirControl := rfl
@[simp] theorem State.setDirOf_data_dirData (m : Byte) : (s.setDirOf .data m).dirData = m := rfl
@[simp] theorem State.dirOf_control : s.dirOf .control = s.dirControl := rfl
@[simp] theorem State.dirOf_data : s.dirOf .data = s.dirData := rfl
@[simp] theorem State.setPosOf_contrast_contrast (n : Nat) : (s.setPosOf .contrast n).contrast = n := rfl
@[simp] theorem State.setPosOf_contrast_backlight (n : Nat) : (s.setPosOf .contrast n).backlight = s.backlight := rfl
@[simp] theorem State.setPosOf_backlight_contrast (n : Nat) : (s.setPosOf .backlight n).contrast = s.contrast := rfl
@[simp] theorem State.setPosOf_backlight_backlight (n : Nat) : (s.setPosOf .backlight n).backlight = n := rfl
@[simp] theorem State.posOf_contrast : s.posOf .contrast = s.contrast := rfl
@[simp] theorem State.posOf_backlight : s.posOf .backlight = s.backlight := rfl

/-- Reading back the slot just written. -/
@[simp] theorem perOp_get_set_same {α : Type} (p : PerOp α) (op : LcdOp) (v : α) : (p.set op v).get op = v := by
  cases op <;> rfl

/-- Writing a slot leaves every other slot alone. -/
theorem perOp_get_set_other {α : Type} (p : PerOp α) {op op' : LcdOp} (v : α) (h : op' ≠ op) :
    (p.set op v).get op' = p.get op' := by
  cases op <;> cases op' <;> first | rfl | exact absurd rfl h

end Sys2Proof.Machine
end

