-- ==== Sys2Proof/Laws/Ops.lean ====
section
/-! SUPPORT. What each shared operation does, said once: the primitives, the busy poll and the transfers, as changes of
`State.bus`, the state after bus traffic; how `run` goes through a list of steps; what a refusal changes. -/

namespace Sys2Proof.Machine

/-! ## `State.bus` -/

section
variable (s : State) (sh dc dd : Byte) (tr : List Event) (n : Nat)

@[simp] theorem State.bus_cfg : (s.bus sh dc dd tr n).cfg = s.cfg := rfl
@[simp] theorem State.bus_geom : (s.bus sh dc dd tr n).geom = s.geom := rfl
@[simp] theorem State.bus_shadow : (s.bus sh dc dd tr n).shadow = sh := rfl
@[simp] theorem State.bus_dirControl : (s.bus sh dc dd tr n).dirControl = dc := rfl
@[simp] theorem State.bus_dirData : (s.bus sh dc dd tr n).dirData = dd := rfl
@[simp] theorem State.bus_cs : (s.bus sh dc dd tr n).cs = s.cs := rfl
@[simp] theorem State.bus_col : (s.bus sh dc dd tr n).col = s.col := rfl
@[simp] theorem State.bus_row : (s.bus sh dc dd tr n).row = s.row := rfl
@[simp] theorem State.bus_waitMode : (s.bus sh dc dd tr n).waitMode = s.waitMode := rfl
@[simp] theorem State.bus_ctrl : (s.bus sh dc dd tr n).ctrl = s.ctrl := rfl
@[simp] theorem State.bus_faulted : (s.bus sh dc dd tr n).faulted = s.faulted := rfl
@[simp] theorem State.bus_out : (s.bus sh dc dd tr n).out = s.out := rfl
@[simp] theorem State.bus_trace : (s.bus sh dc dd tr n).trace = s.trace ++ tr := rfl
@[simp] theorem State.bus_inputs : (s.bus sh dc dd tr n).inputs = s.inputs.drop n := rfl
@[simp] theorem State.bus_reads : (s.bus sh dc dd tr n).reads = s.reads + n := rfl
@[simp] theorem State.bus_faultIn :
    (s.bus sh dc dd tr n).faultIn = s.faultIn.map (fun k => k - transactions tr) := rfl

/-- Updates of other fields go inside. -/
@[simp] theorem State.bus_record (op : LcdOp) (v : Byte) :
    (s.bus sh dc dd tr n).record op v = (s.record op v).bus sh dc dd tr n := rfl
@[simp] theorem State.bus_setCursor (c r : Nat) :
    (s.bus sh dc dd tr n).setCursor c r = (s.setCursor c r).bus sh dc dd tr n := rfl
@[simp] theorem State.bus_setPosOf (k : Pot) (p : Nat) :
    (s.bus sh dc dd tr n).setPosOf k p = (s.setPosOf k p).bus sh dc dd tr n := by cases k <;> rfl
@[simp] theorem State.bus_setMode (m : WaitMode) :
    (s.bus sh dc dd tr n).setMode m = (s.setMode m).bus sh dc dd tr n := rfl
@[simp] theorem State.bus_setCtrl (c : Ctrl) : (s.bus sh dc dd tr n).setCtrl c = (s.setCtrl c).bus sh dc dd tr n := rfl
@[simp] theorem State.bus_setPowered (b : Bool) :
    (s.bus sh dc dd tr n).setPowered b = (s.setPowered b).bus sh dc dd tr n := rfl
@[simp] theorem State.bus_setClosed : (s.bus sh dc dd tr n).setClosed = s.setClosed.bus sh dc dd tr n := rfl
@[simp] theorem State.bus_pushOut (v : Byte) :
    (s.bus sh dc dd tr n).pushOut v = (s.pushOut v).bus sh dc dd tr n := rfl
end

/-- No traffic yet. -/
theorem State.bus_start (s : State) : s.bus s.shadow s.dirControl s.dirData [] 0 = s := by
  cases s with
  | mk =>
    simp only [State.bus, List.append_nil, List.drop_zero, Nat.add_zero, transactions, List.countP_nil, Nat.sub_zero]
    congr
    exact congrFun Option.map_id _

@[simp] theorem transactions_nil : transactions [] = 0 := rfl

@[simp] theorem transactions_append (a b : List Event) : transactions (a ++ b) = transactions a + transactions b :=
  List.countP_append

/-- A trace that may be made in full may be made up to any point. -/
theorem NoFault.mono {s : State} {a b : List Event} (h : NoFault s (a ++ b)) : NoFault s a :=
  fun k hk => Nat.le_trans (by simp) (h k hk)

/-! ## Primitives -/

/-- A transaction that does not fault appends its event and uses up one of the transactions left. -/
theorem transact_bus {s : State} {sh dc dd : Byte} {tr : List Event} {n : Nat} (t : Tx) (e : Event)
    (he : transactions [e] = 1) (h : NoFault s (tr ++ [e])) :
    transact t e (s.bus sh dc dd tr n) = .ok (s.bus sh dc dd (tr ++ [e]) n) := by
  unfold transact
  cases hf : s.faultIn with
  | none => simp [hf, State.emit, State.bus]
  | some k =>
    have hk := h k hf
    rw [transactions_append, he] at hk
    obtain ⟨j, hj⟩ : ∃ j, k - transactions tr = j + 1 := ⟨k - transactions tr - 1, by omega⟩
    have hj' : k - (transactions tr + 1) = j := by omega
    simp [hf, hj, hj', State.emit, State.bus, State.setFaultIn, he]

/-- A transaction that faults leaves everything but the trace, and its marker is the trace's last event. -/
theorem transact_error {s s' : State} {t : Tx} {e : Event} (h : transact t e s = .error s') :
    s.faultIn = some 0 ∧ s' = s.emit (.fails t) := by
  unfold transact at h
  split at h <;> simp_all

theorem setSignal_bus {s : State} {sh dc dd : Byte} {tr : List Event} {n : Nat} (m : Byte) (on : Bool)
    (h : NoFault s (tr ++ [.wc (maskBits m on sh)])) :
    setSignal m on (s.bus sh dc dd tr n)
      = .ok (s.bus (maskBits m on sh) dc dd (tr ++ [.wc (maskBits m on sh)]) n) :=
  transact_bus (s := s) _ _ rfl h

theorem setDir_control_bus {s : State} {sh dc dd : Byte} {tr : List Event} {n : Nat} (m : Byte) (input : Bool)
    (h : NoFault s (tr ++ [.dir .control (maskBits m input dc)])) :
    setDir .control m input (s.bus sh dc dd tr n)
      = .ok (s.bus sh (maskBits m input dc) dd (tr ++ [.dir .control (maskBits m input dc)]) n) :=
  transact_bus (s := s) _ _ rfl h

theorem setDir_data_bus {s : State} {sh dc dd : Byte} {tr : List Event} {n : Nat} (m : Byte) (input : Bool)
    (h : NoFault s (tr ++ [.dir .data (maskBits m input dd)])) :
    setDir .data m input (s.bus sh dc dd tr n)
      = .ok (s.bus sh dc (maskBits m input dd) (tr ++ [.dir .data (maskBits m input dd)]) n) :=
  transact_bus (s := s) _ _ rfl h

theorem dataOut_bus {s : State} {sh dc dd : Byte} {tr : List Event} {n : Nat} (b : Byte)
    (h : NoFault s (tr ++ [.wd b])) :
    portOut .data b (s.bus sh dc dd tr n) = .ok (s.bus sh dc dd (tr ++ [.wd b]) n) :=
  transact_bus (s := s) _ _ rfl h

/-- `PortIn(1)` answers the next listed byte. -/
theorem portIn_bus {s : State} {sh dc dd : Byte} {tr : List Event} {n : Nat} {v : Byte} {vs : List Byte}
    (hv : s.inputs.drop n = v :: vs) (h : NoFault s (tr ++ [.rd v])) :
    portIn (s.bus sh dc dd tr n) = .ok (v, s.bus sh dc dd (tr ++ [.rd v]) (n + 1)) := by
  have hn : nextInput (s.bus sh dc dd tr n) = v := by simp [nextInput, hv]
  unfold portIn
  rw [hn, transact_bus (s := s) _ _ rfl h]
  simp [State.takeInput, State.bus, Nat.add_assoc]

/-- 0xFF sets or clears every direction bit (40_bus_primitives.md R137). -/
theorem maskBits_all (input : Bool) (v : Byte) : maskBits 0xFF input v = if input then 0xFF else 0x00 := by
  cases input
  · show v &&& ~~~0xFF#8 = 0x00#8
    rw [show ~~~0xFF#8 = 0x00#8 from rfl, BitVec.and_zero]
  · show v ||| 0xFF#8 = 0xFF#8
    ext i hi
    rw [BitVec.getElem_or]
    have : ∀ j : Fin 8, (0xFF#8)[j.val]'(j.isLt) = true := by decide
    rw [this ⟨i, hi⟩, Bool.or_true]

/-! ## The busy poll -/

/-- The control byte an iteration of the poll leaves: RS and EN low, RW high (40_bus_primitives.md R139). -/
def polled (sg : SigMap) (h : Byte) : Byte := maskBits sg.en false (maskBits sg.en true (maskBits sg.rw true (maskBits sg.rs false h)))

/-- The events of one iteration from any control byte. -/
def pollEvents (sg : SigMap) (h v : Byte) : List Event :=
  [.wc (maskBits sg.rs false h), .wc (maskBits sg.rw true (maskBits sg.rs false h)), .dir .data 0xFF,
    .wc (maskBits sg.en true (maskBits sg.rw true (maskBits sg.rs false h))), .rd v, .wc (polled sg h), .dir .data 0x00]

/-- One iteration that does not fault (R139). -/
theorem pollOnce_bus {s : State} {sh dc dd : Byte} {tr : List Event} {n : Nat} {v : Byte} {vs : List Byte}
    (hv : s.inputs.drop n = v :: vs) (h : NoFault s (tr ++ pollEvents s.cfg.sig sh v)) :
    pollOnce (s.bus sh dc dd tr n)
      = .ok (v, s.bus (polled s.cfg.sig sh) dc 0x00 (tr ++ pollEvents s.cfg.sig sh v) (n + 1)) := by
  have cut : ∀ (a b : List Event), pollEvents s.cfg.sig sh v = a ++ b → NoFault s (tr ++ a) :=
    fun a b e => NoFault.mono (b := b) (by rw [List.append_assoc, ← e]; exact h)
  have d : ∀ input w, maskBits 0xFF input w = if input then 0xFF else 0x00 := maskBits_all
  unfold pollOnce
  simp only [bind, Except.bind, State.bus_cfg]
  rw [setSignal_bus _ _ (cut [_] _ rfl)]
  simp only [State.bus_cfg]
  rw [setSignal_bus _ _ (by rw [List.append_assoc]; exact cut [_, _] _ rfl)]
  simp only []
  rw [setDir_data_bus _ _ (by rw [d, List.append_assoc, List.append_assoc]; exact cut [_, _, _] _ rfl)]
  simp only [State.bus_cfg, d]
  rw [setSignal_bus _ _ (by simp only [List.append_assoc]; exact cut [_, _, _, _] _ rfl)]
  simp only []
  rw [portIn_bus hv (by simp only [List.append_assoc]; exact cut [_, _, _, _, _] _ rfl)]
  simp only [State.bus_cfg]
  rw [setSignal_bus _ _ (by simp only [List.append_assoc]; exact cut [_, _, _, _, _, _] _ rfl)]
  simp only []
  rw [setDir_data_bus _ _ (by rw [d]; simp only [List.append_assoc]; exact cut [_, _, _, _, _, _, _] [] rfl)]
  simp only [d, pure, Except.pure, List.append_assoc, pollEvents, polled]
  rfl

/-- From the control byte an iteration leaves, the next leaves it again. -/
theorem polled_polled {sg : SigMap} (hd : sg.Disjoint) {h : Byte} (hl : h &&& lineMask sg = 0x00#8) :
    polled sg h = h ||| sg.rw ∧ polled sg (h ||| sg.rw) = h ||| sg.rw
      ∧ pollEvents sg h = pollTrace sg h ∧ pollEvents sg (h ||| sg.rw) = repollTrace sg h := by
  rw [lineMask, disjoint_or, disjoint_or] at hl
  obtain ⟨⟨hrs, hrw⟩, hen⟩ := hl
  have rwrs : sg.rw &&& sg.rs = 0x00#8 := by rw [BitVec.and_comm]; exact hd.rs_rw
  have e1 : maskBits sg.rs false h = h := clear_of_disjoint hrs
  have e2 : maskBits sg.rs false (h ||| sg.rw) = h ||| sg.rw := clear_of_disjoint (or_disjoint.2 ⟨hrs, rwrs⟩)
  have e3 : maskBits sg.rw true h = h ||| sg.rw := rfl
  have e4 : maskBits sg.rw true (h ||| sg.rw) = h ||| sg.rw := by
    show h ||| sg.rw ||| sg.rw = h ||| sg.rw
    rw [BitVec.or_assoc, BitVec.or_self]
  have e5 : maskBits sg.en true (h ||| sg.rw) = h ||| sg.rw ||| sg.en := rfl
  have e6 : maskBits sg.en false (h ||| sg.rw ||| sg.en) = h ||| sg.rw :=
    set_clear_of_disjoint (or_disjoint.2 ⟨hen, hd.rw_en⟩)
  refine ⟨?_, ?_, ?_, ?_⟩
  · simp only [polled, e1, e3, e5, e6]
  · simp only [polled, e2, e4, e5, e6]
  · funext v; simp only [pollEvents, pollTrace, polled, e1, e3, e5, e6]
  · funext v; simp only [pollEvents, repollTrace, polled, e2, e4, e5, e6]

end Sys2Proof.Machine
end

