-- ==== Sys2Proof/Laws/Frames.lean ====
section
/-! SUPPORT. What a step of the pseudocode can change, whatever its transactions answer; the induction over a run, packaged once;
and the two ways a request goes: refused, or run. -/

namespace Sys2Proof.Machine

/-- `t` is `s` but for what bus traffic may change. -/
def Busied (s t : State) : Prop :=
  t =
    { s with
      shadow := t.shadow
      dirControl := t.dirControl
      dirData := t.dirData
      trace := t.trace
      inputs := t.inputs
      reads := t.reads
      faultIn := t.faultIn }

theorem Busied.refl (s : State) : Busied s s := rfl

theorem Busied.trans {s t u : State} (h : Busied s t) (k : Busied t u) : Busied s u := by
  unfold Busied at *
  rw [k, h]

/-- `P` holds of the state after a primitive, whether or not it faulted. -/
def Both (P : State → Prop) : Except State State → Prop
  | .ok s => P s
  | .error s => P s

/-- `P` holds of the state after a step, however it ended. -/
def Ends (P : State → Prop) : Except State Done → Prop
  | .error s => P s
  | .ok (.done s) => P s
  | .ok (.hold _ s) => P s

theorem transact_busied (t : Tx) (e : Event) (s : State) : Both (Busied s) (transact t e s) := by
  unfold transact
  split <;> exact rfl

theorem setSignal_busied (m : Byte) (on : Bool) (s : State) : Both (Busied s) (setSignal m on s) := by
  have h : Busied s (s.setShadow (maskBits m on s.shadow)) := rfl
  have k := transact_busied (.wc (maskBits m on s.shadow)) (.wc (maskBits m on s.shadow))
    (s.setShadow (maskBits m on s.shadow))
  unfold setSignal portOut
  revert k
  generalize transact _ _ _ = r
  intro k
  cases r <;> exact h.trans k

theorem setDir_busied (p : Port) (m : Byte) (input : Bool) (s : State) : Both (Busied s) (setDir p m input s) := by
  have h : Busied s (s.setDirOf p (maskBits m input (s.dirOf p))) := by cases p <;> exact rfl
  have k := transact_busied (.dir p (maskBits m input (s.dirOf p))) (.dir p (maskBits m input (s.dirOf p)))
    (s.setDirOf p (maskBits m input (s.dirOf p)))
  unfold setDir portDir
  revert k
  generalize transact _ _ _ = r
  intro k
  cases r <;> exact h.trans k

theorem portOut_busied (p : Port) (v : Byte) (s : State) : Both (Busied s) (portOut p v s) := by
  cases p <;> exact transact_busied _ _ _

theorem portIn_busied (s : State) :
    (∀ t, portIn s = .error t → Busied s t) ∧ ∀ v t, portIn s = .ok (v, t) → Busied s t := by
  have h := transact_busied .rd (.rd (nextInput s)) s
  unfold portIn
  split <;> rename_i hr <;> rw [hr] at h
  · exact ⟨fun t e => (by cases e; exact h), fun v t e => by cases e⟩
  · refine ⟨fun t e => (by cases e), fun v t e => ?_⟩
    cases e
    exact h.trans rfl

/-- One iteration of the poll. -/
theorem pollOnce_busied (s : State) :
    (∀ t, pollOnce s = .error t → Busied s t) ∧ ∀ v t, pollOnce s = .ok (v, t) → Busied s t := by
  have bind1 : ∀ {r : Except State State} {f : State → Except State (Byte × State)} {x : State}, Both (Busied x) r →
      (∀ y, Busied x y → (∀ t, f y = .error t → Busied x t) ∧ ∀ v t, f y = .ok (v, t) → Busied x t) →
      (∀ t, (r >>= f) = .error t → Busied x t) ∧ ∀ v t, (r >>= f) = .ok (v, t) → Busied x t := by
    intro r f x hr hf
    cases r with
    | error e => exact ⟨fun t h => (by cases h; exact hr), fun v t h => by cases h⟩
    | ok y => exact hf y hr
  have bind2 : ∀ {f : Byte × State → Except State (Byte × State)} {x y : State}, Busied x y →
      (∀ w z, Busied x z → (∀ t, f (w, z) = .error t → Busied x t) ∧ ∀ v t, f (w, z) = .ok (v, t) → Busied x t) →
      (∀ t, (portIn y >>= f) = .error t → Busied x t) ∧ ∀ v t, (portIn y >>= f) = .ok (v, t) → Busied x t := by
    intro f x y hy hf
    obtain ⟨he, ho⟩ := portIn_busied y
    cases hp : portIn y with
    | error e => exact ⟨fun t h => (by cases h; exact hy.trans (he _ hp)), fun v t h => by cases h⟩
    | ok r => exact hf r.1 r.2 (hy.trans (ho _ _ hp))
  have lift : ∀ {x y : State} {r : Except State State}, Busied x y → Both (Busied y) r → Both (Busied x) r := by
    intro x y r h hr
    cases r <;> exact h.trans hr
  unfold pollOnce
  refine bind1 (setSignal_busied _ _ _) fun s1 h1 => ?_
  refine bind1 (lift h1 (setSignal_busied _ _ _)) fun s2 h2 => ?_
  refine bind1 (lift h2 (setDir_busied _ _ _ _)) fun s3 h3 => ?_
  refine bind1 (lift h3 (setSignal_busied _ _ _)) fun s4 h4 => ?_
  refine bind2 h4 fun v s5 h5 => ?_
  refine bind1 (lift h5 (setSignal_busied _ _ _)) fun s6 h6 => ?_
  refine bind1 (lift h6 (setDir_busied _ _ _ _)) fun s7 h7 => ?_
  exact ⟨fun t h => (by cases h), fun v t h => by cases h; exact h7⟩

/-- The whole poll. -/
theorem busyPoll_busied (fuel n : Nat) (s : State) : Ends (Busied s) (busyPoll fuel n s) := by
  induction fuel generalizing n s with
  | zero =>
    obtain ⟨he, ho⟩ := pollOnce_busied s
    unfold busyPoll
    split
    · rename_i t ht
      exact he t ht
    · rename_i v t ht
      have h := ho v t ht
      unfold pollTest
      split
      · split
        · exact h.trans rfl
        · exact h
      · exact h
  | succ fuel ih =>
    obtain ⟨he, ho⟩ := pollOnce_busied s
    unfold busyPoll
    split
    · rename_i t ht
      exact he t ht
    · rename_i v t ht
      have h := ho v t ht
      unfold pollTest
      split
      · split
        · exact h.trans rfl
        · have hp := ih (n + 1) t
          revert hp
          generalize busyPoll fuel (n + 1) t = r
          intro hp
          cases r with
          | error x => exact h.trans hp
          | ok d => cases d <;> exact h.trans hp
      · exact h

/-- A wait (40_bus_primitives.md R138). -/
theorem waitReady_busied (s : State) : Ends (Busied s) (waitReady s) := by
  unfold waitReady
  split
  · exact rfl
  · exact busyPoll_busied _ _ _

/-! ## Runs -/

/-- A property of states that every step of a list keeps, however the step ends, holds after the run. -/
theorem run_keeps {P : State → Prop} (ms : List Micro) (s : State) (h0 : P s)
    (hm : ∀ m ∈ ms, ∀ t, P t → Ends P (perform m t)) (hf : ∀ t, P t → P (onBusFault t))
    (hs : ∀ t r, P t → P (t.setSeq r)) : P (run ms s) := by
  induction ms generalizing s with
  | nil => exact h0
  | cons m ms ih =>
    have h := hm m List.mem_cons_self s h0
    rw [run]
    revert h
    generalize perform m s = r
    intro h
    cases r with
    | error t => exact hf t h
    | ok d =>
      cases d with
      | done t => exact ih t h fun m' hm' => hm m' (List.mem_cons_of_mem _ hm')
      | hold m' t => exact hs t _ h

/-- A request is refused before its first transaction, or its steps run from the state with a new trace
(60_exceptions.md R277). -/
theorem serve_cases (needReady : Bool) (prog : Geometry → Except Status (List Micro)) (s : State) :
    (∃ e, serve needReady prog s = refuse e s) ∨
      ∃ g ms, s.geom = some g ∧ admission needReady s = none ∧ prog g = .ok ms ∧ serve needReady prog s = run ms s.begin := by
  unfold serve
  split
  · exact .inl ⟨_, rfl⟩
  · rename_i g hg
    split
    · exact .inl ⟨_, rfl⟩
    · rename_i ha
      split
      · exact .inl ⟨_, rfl⟩
      · rename_i ms hp
        exact .inr ⟨g, ms, hg, ha, hp, rfl⟩

/-- A refusal is a new response and an empty trace. -/
theorem refuse_eq (e : Status) (s : State) : refuse e s = s.refused e := rfl

/-- An operational block admits a lifecycle request. -/
theorem serve_admits {s : State} {g : Geometry} (h : Admits s g) (prog : Geometry → Except Status (List Micro)) :
    serve false prog s = match prog g with | .error e => refuse e s | .ok ms => run ms s.begin := by
  have ha : admission false s = none := by simp [admission, h.faulted, h.closed]
  unfold serve
  rw [h.geom]
  dsimp only
  generalize admission false s = a at ha ⊢
  subst ha
  rfl

/-- A Ready block admits every request. -/
theorem serve_ready {s : State} {g : Geometry} (h : Ready s g) (prog : Geometry → Except Status (List Micro)) :
    serve true prog s = match prog g with | .error e => refuse e s | .ok ms => run ms s.begin := by
  have ha : admission true s = none := by simp [admission, h.faulted, h.closed, h.ctrl]
  unfold serve
  rw [h.geom]
  dsimp only
  generalize admission true s = a at ha ⊢
  subst ha
  rfl

end Sys2Proof.Machine
end

