-- ==== Sys2Proof/Laws/Layout.lean ====
section
/-! SUPPORT. The text layout's helpers: the bound on `wrap`'s inner loop, and what `splitLines` and `splitWords` do one byte at a
time. -/

namespace Sys2Proof.Machine

/-- One round of the inner loop. -/
theorem placeWord_succ (full f : Nat) (w : List Byte) (st : WrapState) :
    placeWord full (f + 1) w st =
      if st.cur = [] then
        if w.length ≤ st.width then { st with cur := w }
        else if full < w.length then
          placeWord full f (w.drop st.width) { spans := st.spans ++ [w.take st.width], cur := [], width := full }
        else placeWord full f w { spans := st.spans ++ [[]], cur := [], width := full }
      else if st.cur.length + 1 + w.length ≤ st.width then { st with cur := st.cur ++ (0x20#8 :: w) }
      else placeWord full f w { spans := st.spans ++ [st.cur], cur := [], width := full } := rfl

/-- With nothing gathered, the inner loop of `wrap` (42_text_and_memory.md R211) needs at most one round more than the word has
bytes. -/
theorem placeWord_empty_fuel {full : Nat} (hfull : 1 ≤ full) (fuel : Nat) (w : List Byte) (st : WrapState)
    (hc : st.cur = []) (hw : 1 ≤ st.width) (h : w.length + 1 ≤ fuel) :
    placeWord full (fuel + 1) w st = placeWord full fuel w st := by
  induction fuel generalizing w st with
  | zero => omega
  | succ f ih =>
    rw [placeWord_succ full (f + 1), placeWord_succ full f w st, if_pos hc, if_pos hc]
    by_cases h1 : w.length ≤ st.width
    · rw [if_pos h1, if_pos h1]
    · rw [if_neg h1, if_neg h1]
      by_cases h2 : full < w.length
      · rw [if_pos h2, if_pos h2]
        exact ih _ _ rfl hfull (by rw [List.length_drop]; omega)
      · rw [if_neg h2, if_neg h2]
        obtain ⟨k, rfl⟩ : ∃ k, f = k + 1 := ⟨f - 1, by omega⟩
        have h3 : w.length ≤ full := by omega
        have last : ∀ j, placeWord full (j + 1) w { spans := st.spans ++ [[]], cur := [], width := full }
            = { spans := st.spans ++ [[]], cur := w, width := full } := fun j => by
          rw [placeWord_succ, if_pos rfl, if_pos h3]
        rw [last, last]

/-- More rounds than `len(w) + 2` change nothing: the bound of `placeWords` is never used up (log entry 18). -/
theorem placeWord_fuel_irrelevant {full : Nat} (hfull : 1 ≤ full) (fuel : Nat) (w : List Byte) (st : WrapState)
    (hw : 1 ≤ st.width) (h : w.length + 2 ≤ fuel) : placeWord full (fuel + 1) w st = placeWord full fuel w st := by
  by_cases hc : st.cur = []
  · exact placeWord_empty_fuel hfull fuel w st hc hw (by omega)
  · obtain ⟨f, rfl⟩ : ∃ f, fuel = f + 1 := ⟨fuel - 1, by omega⟩
    rw [placeWord_succ full (f + 1), placeWord_succ full f w st, if_neg hc, if_neg hc]
    by_cases h1 : st.cur.length + 1 + w.length ≤ st.width
    · rw [if_pos h1, if_pos h1]
    · rw [if_neg h1, if_neg h1]
      exact placeWord_empty_fuel hfull f w _ rfl hfull (by omega)

/-- The piece so far stands in front of the first piece of what follows. -/
theorem linesFrom_cur (cur p : List Byte) :
    ∃ l ls, linesFrom [] p = l :: ls ∧ linesFrom cur p = (cur ++ l) :: ls := by
  induction p generalizing cur with
  | nil => exact ⟨[], [], rfl, by simp [linesFrom]⟩
  | cons b bs ih =>
    by_cases hb : b = 0x0A#8
    · exact ⟨[], linesFrom [] bs, by simp [linesFrom, hb], by simp [linesFrom, hb]⟩
    · obtain ⟨l, ls, h1, h2⟩ := ih [b]
      obtain ⟨l', ls', h1', h2'⟩ := ih (cur ++ [b])
      rw [h1] at h1'
      cases h1'
      refine ⟨b :: l, ls, ?_, ?_⟩
      · rw [linesFrom, if_neg hb]
        exact h2
      · rw [linesFrom, if_neg hb, h2']
        simp

end Sys2Proof.Machine
end

