-- ==== Sys2Proof/Laws/Words.lean ====
section
/-! SUPPORT. The four bytes of a request word (30_encoding.md R91). -/

namespace Sys2Proof

/-- A bit of a word put together from four bytes. -/
theorem word_getLsbD (op a0 a1 rsv : Byte) (i : Nat) :
    (rsv ++ a1 ++ a0 ++ op : BitVec 32).getLsbD i =
      if i < 8 then op.getLsbD i
      else if i < 16 then a0.getLsbD (i - 8)
      else if i < 24 then a1.getLsbD (i - 16)
      else rsv.getLsbD (i - 24) := by
  show BitVec.getLsbD (w := 8 + 8 + 8 + 8) (rsv ++ a1 ++ a0 ++ op) i = _
  rw [BitVec.getLsbD_append, BitVec.getLsbD_append, BitVec.getLsbD_append]
  by_cases h1 : i < 8
  · simp [h1]
  · by_cases h2 : i < 16
    · have : i - 8 < 8 := by omega
      simp [h1, h2, this]
    · by_cases h3 : i < 24
      · have h4 : ¬i - 8 < 8 := by omega
        have h5 : i - 8 - 8 < 8 := by omega
        have h6 : i - 8 - 8 = i - 16 := by omega
        simp [h1, h2, h3, h4, h6, h6 ▸ h5]
      · have h4 : ¬i - 8 < 8 := by omega
        have h5 : ¬i - 8 - 8 < 8 := by omega
        have h6 : i - 8 - 8 - 8 = i - 24 := by omega
        simp only [h1, h2, h3, h4, h5, h6, if_false]

/-- The encoder's word is such a word (R96). -/
theorem requestWord_eq (op a0 a1 : Byte) : requestWord op a0 a1 = (0x00#8 ++ a1 ++ a0 ++ op : BitVec 32) := by
  refine BitVec.eq_of_getLsbD_eq fun i hi => ?_
  rw [word_getLsbD]
  show BitVec.getLsbD (w := 8 + (8 + (8 + 8))) (0x00#8 ++ (a1 ++ (a0 ++ op))) i = _
  rw [BitVec.getLsbD_append, BitVec.getLsbD_append, BitVec.getLsbD_append]
  by_cases h1 : i < 8
  · have : i < 8 + 8 := by omega
    have : i < 8 + (8 + 8) := by omega
    simp [*]
  · by_cases h2 : i < 16
    · have : i < 8 + (8 + 8) := by omega
      simp [*]
    · by_cases h3 : i < 24
      · simp [*]
      · simp [*]

/-- The fields of a word put together from four bytes. -/
theorem byteAt_word (op a0 a1 rsv : Byte) :
    byteAt (rsv ++ a1 ++ a0 ++ op) 0 = op ∧ byteAt (rsv ++ a1 ++ a0 ++ op) 8 = a0 ∧
      byteAt (rsv ++ a1 ++ a0 ++ op) 16 = a1 ∧ byteAt (rsv ++ a1 ++ a0 ++ op) 24 = rsv := by
  refine ⟨?_, ?_, ?_, ?_⟩ <;> refine BitVec.eq_of_getLsbD_eq fun i hi => ?_ <;>
    rw [byteAt, BitVec.getLsbD_extractLsb', word_getLsbD]
  · simp [hi]
  · have h1 : ¬8 + i < 8 := by omega
    have h2 : 8 + i < 16 := by omega
    simp [hi, h1, h2]
  · have h1 : ¬16 + i < 8 := by omega
    have h2 : ¬16 + i < 16 := by omega
    have h3 : 16 + i < 24 := by omega
    simp [hi, h1, h2, h3]
  · have h1 : ¬24 + i < 8 := by omega
    have h2 : ¬24 + i < 16 := by omega
    have h3 : ¬24 + i < 24 := by omega
    simp [hi, h1, h2, h3]

end Sys2Proof
end

