-- ==== Sys2Proof/Laws/PerInstr.lean ====
section
/-! SUPPORT. Statements made of every instruction, one lemma per constructor. Family `Encoding`: the encoded form of an
instruction has the fixed bits of its row of spec/opcode_table.json. -/

namespace Sys2Proof.Laws.Encoding

/-- The fixed bits of a row of spec/opcode_table.json. -/
inductive Row where
  /-- A request word: OP, with RSV = 0 (mask 0xFF0000FF). -/
  | request (op : Byte)
  /-- An HD44780 instruction byte: mask and match. -/
  | lcd (mask bits : Byte)
  /-- A control byte: EN = 1, with RS and RW at these levels. -/
  | bus (rs rw : Bool)
  deriving DecidableEq, Repr

/-- The row of an instruction. -/
def row : Instr → Row
  | .powerOn => .request 0x01
  | .powerOff => .request 0x02
  | .clear => .request 0x03
  | .home => .request 0x04
  | .setCursor _ _ => .request 0x05
  | .print _ => .request 0x06
  | .defineGlyph _ _ => .request 0x07
  | .setContrast _ => .request 0x08
  | .setBacklight _ => .request 0x09
  | .setBlink _ => .request 0x0A
  | .setCursorVisible _ => .request 0x0B
  | .setDisplayVisible _ => .request 0x0C
  | .readRow _ => .request 0x0D
  | .close => .request 0x0E
  | .contrastInc => .request 0x10
  | .contrastDec => .request 0x11
  | .backlightInc => .request 0x12
  | .backlightDec => .request 0x13
  | .hdClear => .lcd 0xFF 0x01
  | .hdHome => .lcd 0xFE 0x02
  | .hdEntryMode _ _ => .lcd 0xFC 0x04
  | .hdDisplayCtrl _ _ _ => .lcd 0xF8 0x08
  | .hdShift _ _ => .lcd 0xF0 0x10
  | .hdFunctionSet _ _ _ => .lcd 0xE0 0x20
  | .hdSetCgramAddress _ => .lcd 0xC0 0x40
  | .hdSetDdramAddress _ => .lcd 0x80 0x80
  | .busInstructionWrite _ => .bus false false
  | .busBusyRead => .bus false true
  | .busDataWrite _ => .bus true false
  | .busDataRead => .bus true true

/-- A coded form has a row's fixed bits, under a wiring. -/
def Fits (sg : SigMap) : Row → Code → Prop
  | .request op, .request w _ => w &&& 0xFF0000FF#32 = op.setWidth 32
  | .lcd mask bits, .lcd b => b &&& mask = bits
  | .bus rs rw, .bus c _ => signalHigh sg.en c = true ∧ signalHigh sg.rs c = rs ∧ signalHigh sg.rw c = rw
  | _, _ => False

/-- The encoded form has the fixed bits of the instruction's row. -/
def Statement (i : Instr) : Prop := ∀ sg : SigMap, sg.wf = true → Fits sg (row i) (encode sg i)

/-- A request word's OP and RSV fields, whatever the arguments. -/
theorem requestWord_fixed (op a0 a1 : Byte) : requestWord op a0 a1 &&& 0xFF0000FF#32 = op.setWidth 32 := by
  refine BitVec.eq_of_getLsbD_eq fun i hi => ?_
  rw [BitVec.getLsbD_and, requestWord_eq, word_getLsbD]
  interval_cases i <;> simp

/-- A control byte made of some of the wiring's signals has exactly those high. -/
theorem signalHigh_or (m a b : Byte) : signalHigh m (a ||| b) = (signalHigh m a || signalHigh m b) := by
  simp only [signalHigh]
  rw [BitVec.and_comm (a ||| b), BitVec.and_comm a, BitVec.and_comm b]
  by_cases h : m &&& (a ||| b) = 0x00#8
  · have := disjoint_or.1 h
    simp [h, this.1, this.2]
  · rw [disjoint_or] at h
    by_cases h1 : m &&& a = 0x00#8
    · have h2 : m &&& b ≠ 0x00#8 := fun h2 => h ⟨h1, h2⟩
      have h3 : m &&& (a ||| b) ≠ 0x00#8 := fun h3 => h (disjoint_or.1 h3)
      simp [h1, h2, h3]
    · have h3 : m &&& (a ||| b) ≠ 0x00#8 := fun h3 => h (disjoint_or.1 h3)
      simp [h1, h3]

theorem signalHigh_self {m : Byte} (h : m ≠ 0x00#8) : signalHigh m m = true := by
  simp [signalHigh, h]

theorem signalHigh_off {m a : Byte} (h : a &&& m = 0x00#8) : signalHigh m a = false := by
  simp [signalHigh, h]

/-- The signals of a lawful wiring in the control bytes of the four cycles. -/
theorem lines {sg : SigMap} (h : sg.wf = true) :
    signalHigh sg.en sg.en = true ∧ signalHigh sg.rs sg.rs = true ∧ signalHigh sg.rw sg.rw = true ∧
      signalHigh sg.en sg.rs = false ∧ signalHigh sg.en sg.rw = false ∧ signalHigh sg.rs sg.en = false ∧
      signalHigh sg.rs sg.rw = false ∧ signalHigh sg.rw sg.en = false ∧ signalHigh sg.rw sg.rs = false := by
  have d := SigMap.wf_disjoint h
  simp only [SigMap.wf, SigMap.masks, List.all_cons, Bool.and_eq_true] at h
  obtain ⟨⟨h1, h2, h3, -⟩, -⟩ := h
  have c : ∀ {a b : Byte}, a &&& b = 0x00#8 → b &&& a = 0x00#8 := fun e => by rw [BitVec.and_comm]; exact e
  exact ⟨signalHigh_self (oneBit_ne_zero h3), signalHigh_self (oneBit_ne_zero h1), signalHigh_self (oneBit_ne_zero h2),
    signalHigh_off d.rs_en, signalHigh_off d.rw_en, signalHigh_off (c d.rs_en), signalHigh_off (c d.rs_rw),
    signalHigh_off (c d.rw_en), signalHigh_off d.rs_rw⟩

theorem powerOn : Statement .powerOn := fun _ _ => requestWord_fixed _ _ _
theorem powerOff : Statement .powerOff := fun _ _ => requestWord_fixed _ _ _
theorem clear : Statement .clear := fun _ _ => requestWord_fixed _ _ _
theorem home : Statement .home := fun _ _ => requestWord_fixed _ _ _
theorem setCursor (a b : Byte) : Statement (.setCursor a b) := fun _ _ => requestWord_fixed _ _ _
theorem print (a : List Byte) : Statement (.print a) := fun _ _ => requestWord_fixed _ _ _
theorem defineGlyph (a : Byte) (b : List Byte) : Statement (.defineGlyph a b) := fun _ _ => requestWord_fixed _ _ _
theorem setContrast (a : Byte) : Statement (.setContrast a) := fun _ _ => requestWord_fixed _ _ _
theorem setBacklight (a : Byte) : Statement (.setBacklight a) := fun _ _ => requestWord_fixed _ _ _
theorem setBlink (a : Bool) : Statement (.setBlink a) := fun _ _ => requestWord_fixed _ _ _
theorem setCursorVisible (a : Bool) : Statement (.setCursorVisible a) := fun _ _ => requestWord_fixed _ _ _
theorem setDisplayVisible (a : Bool) : Statement (.setDisplayVisible a) := fun _ _ => requestWord_fixed _ _ _
theorem readRow (a : Byte) : Statement (.readRow a) := fun _ _ => requestWord_fixed _ _ _
theorem close : Statement .close := fun _ _ => requestWord_fixed _ _ _
theorem contrastInc : Statement .contrastInc := fun _ _ => requestWord_fixed _ _ _
theorem contrastDec : Statement .contrastDec := fun _ _ => requestWord_fixed _ _ _
theorem backlightInc : Statement .backlightInc := fun _ _ => requestWord_fixed _ _ _
theorem backlightDec : Statement .backlightDec := fun _ _ => requestWord_fixed _ _ _
theorem hdClear : Statement .hdClear := fun _ _ => rfl
theorem hdHome : Statement .hdHome := fun _ _ => rfl
theorem hdEntryMode (a b : Bool) : Statement (.hdEntryMode a b) := fun _ _ => by
  show (lcdOpcode _ ||| _) &&& _ = _
  revert a b
  decide
theorem hdDisplayCtrl (a b c : Bool) : Statement (.hdDisplayCtrl a b c) := fun _ _ => by
  show (lcdOpcode _ ||| _) &&& _ = _
  revert a b c
  decide
theorem hdShift (a b : Bool) : Statement (.hdShift a b) := fun _ _ => by
  show (lcdOpcode _ ||| _) &&& _ = _
  revert a b
  decide
theorem hdFunctionSet (a b c : Bool) : Statement (.hdFunctionSet a b c) := fun _ _ => by
  show (lcdOpcode _ ||| _) &&& _ = _
  revert a b c
  decide
theorem hdSetCgramAddress (a : BitVec 6) : Statement (.hdSetCgramAddress a) := fun _ _ => by
  show (lcdOpcode _ ||| a.setWidth 8) &&& _ = _
  revert a
  decide
theorem hdSetDdramAddress (a : BitVec 7) : Statement (.hdSetDdramAddress a) := fun _ _ => by
  show (lcdOpcode _ ||| a.setWidth 8) &&& _ = _
  revert a
  decide
theorem busInstructionWrite (a : Byte) : Statement (.busInstructionWrite a) := fun sg h => by
  obtain ⟨h1, h2, h3, h4, h5, h6, h7, h8, h9⟩ := lines h
  simp [row, encode, Fits, *]
theorem busBusyRead : Statement .busBusyRead := fun sg h => by
  obtain ⟨h1, h2, h3, h4, h5, h6, h7, h8, h9⟩ := lines h
  simp [row, encode, Fits, signalHigh_or, *]
theorem busDataWrite (a : Byte) : Statement (.busDataWrite a) := fun sg h => by
  obtain ⟨h1, h2, h3, h4, h5, h6, h7, h8, h9⟩ := lines h
  simp [row, encode, Fits, signalHigh_or, *]
theorem busDataRead : Statement .busDataRead := fun sg h => by
  obtain ⟨h1, h2, h3, h4, h5, h6, h7, h8, h9⟩ := lines h
  simp [row, encode, Fits, signalHigh_or, *]

end Sys2Proof.Laws.Encoding
end

