-- ==== Sys2Proof/Laws/Runs.lean ====
section
/-! SUPPORT. What a run of steps does when no transaction faults, in the order of its pseudocode: steps that only drive the
pins, the busy poll, and the transfers of 40_bus_primitives.md section 4. -/

namespace Sys2Proof.Machine

/-! ## Steps that only drive the pins -/

/-- The block's copies of what it drives: the control byte and the two directions. -/
structure Pins where
  shadow : Byte
  dirControl : Byte
  dirData : Byte
  deriving DecidableEq, Repr

/-- Steps that set pins, write a byte or delay: each makes exactly one event and reads nothing. -/
def Micro.drives : Micro → Bool
  | .signal _ _ => true
  | .dir _ _ _ => true
  | .dataOut _ => true
  | .delay _ => true
  | _ => false

/-- The pins after such a step. -/
def Pins.step (p : Pins) : Micro → Pins
  | .signal m on => { p with shadow := maskBits m on p.shadow }
  | .dir .control m input => { p with dirControl := maskBits m input p.dirControl }
  | .dir .data m input => { p with dirData := maskBits m input p.dirData }
  | _ => p

/-- The event of such a step. -/
def Pins.event (p : Pins) : Micro → List Event
  | .signal m on => [.wc (maskBits m on p.shadow)]
  | .dir .control m input => [.dir .control (maskBits m input p.dirControl)]
  | .dir .data m input => [.dir .data (maskBits m input p.dirData)]
  | .dataOut b => [.wd b]
  | .delay t => [.dly t]
  | _ => []

/-- The pins after a list of such steps. -/
def Pins.after (p : Pins) : List Micro → Pins
  | [] => p
  | m :: ms => (p.step m).after ms

/-- The events of a list of such steps. -/
def Pins.events (p : Pins) : List Micro → List Event
  | [] => []
  | m :: ms => p.event m ++ (p.step m).events ms

section
variable (p : Pins)
theorem Pins.step_signal (m : Byte) (on : Bool) : p.step (.signal m on) = { p with shadow := maskBits m on p.shadow } := rfl
theorem Pins.event_signal (m : Byte) (on : Bool) : p.event (.signal m on) = [.wc (maskBits m on p.shadow)] := rfl
theorem Pins.step_dataOut (b : Byte) : p.step (.dataOut b) = p := rfl
theorem Pins.event_dataOut (b : Byte) : p.event (.dataOut b) = [.wd b] := rfl
theorem Pins.step_dataPort (input : Bool) :
    p.step (.dir .data 0xFF input) = { p with dirData := if input then 0xFF else 0x00 } := by
  simp only [Pins.step, maskBits_all]
theorem Pins.event_dataPort (input : Bool) :
    p.event (.dir .data 0xFF input) = [.dir .data (if input then 0xFF else 0x00)] := by
  simp only [Pins.event, maskBits_all]
end

theorem Pins.after_append (p : Pins) (a b : List Micro) : p.after (a ++ b) = (p.after a).after b := by
  induction a generalizing p with
  | nil => rfl
  | cons m ms ih => exact ih _

theorem Pins.events_append (p : Pins) (a b : List Micro) : p.events (a ++ b) = p.events a ++ (p.after a).events b := by
  induction a generalizing p with
  | nil => rfl
  | cons m ms ih => simp only [List.cons_append, Pins.events, Pins.after, ih, List.append_assoc]

/-- A run goes through a step that is done. -/
theorem run_done {m : Micro} {ms : List Micro} {s s' : State} (h : perform m s = .ok (.done s')) :
    run (m :: ms) s = run ms s' := by
  rw [run, h]

/-- The state with the pins at `p`, after `tr` and `n` answers. -/
abbrev State.at (s : State) (p : Pins) (tr : List Event) (n : Nat) : State :=
  s.bus p.shadow p.dirControl p.dirData tr n

/-- A step that drives the pins and does not fault. -/
theorem perform_drive {s : State} {p : Pins} {tr : List Event} {n : Nat} {m : Micro} (hm : m.drives = true)
    (h : NoFault s (tr ++ p.event m)) :
    perform m (s.at p tr n) = .ok (.done (s.at (p.step m) (tr ++ p.event m) n)) := by
  cases m with
  | signal m on => simp only [perform, setSignal_bus _ _ h, plain, Pins.step, Pins.event]
  | dir q m input =>
    cases q with
    | control => simp only [perform, setDir_control_bus _ _ h, plain, Pins.step, Pins.event]
    | data => simp only [perform, setDir_data_bus _ _ h, plain, Pins.step, Pins.event]
  | dataOut b => simp only [perform, dataOut_bus _ h, plain, Pins.step, Pins.event]
  | delay t =>
    have ht : transactions [Event.dly t] = 0 := rfl
    simp [perform, Pins.step, Pins.event, State.emit, State.bus, ht]
  | _ => simp [Micro.drives] at hm

/-- A run through steps that drive the pins. -/
theorem run_drives {s : State} {p : Pins} {tr : List Event} {n : Nat} (ms rest : List Micro)
    (hm : ms.all Micro.drives = true) (h : NoFault s (tr ++ p.events ms)) :
    run (ms ++ rest) (s.at p tr n) = run rest (s.at (p.after ms) (tr ++ p.events ms) n) := by
  induction ms generalizing p tr with
  | nil => simp [Pins.after, Pins.events]
  | cons m ms ih =>
    simp only [List.all_cons, Bool.and_eq_true] at hm
    have h1 : NoFault s (tr ++ p.event m) := by
      refine NoFault.mono (b := (p.step m).events ms) ?_
      rw [List.append_assoc]
      exact h
    rw [List.cons_append, run_done (perform_drive hm.1 h1), ih hm.2 (by rw [List.append_assoc]; exact h)]
    simp only [Pins.after, Pins.events, List.append_assoc]

/-! ## The busy poll -/

/-- From lines at idle, a poll answered by `a` returns, RW high and the data port an output (40_bus_primitives.md R139). -/
theorem busyPoll_bus {s : State} {h dc dd : Byte} {tr : List Event} {n m fuel : Nat} {v : Byte} {vs rest : List Byte}
    (hd : s.cfg.sig.Disjoint) (hl : h &&& lineMask s.cfg.sig = 0x00#8)
    (hv : s.inputs.drop n = v :: vs ++ rest) (hfuel : vs.length ≤ fuel)
    (hbusy : ∀ b ∈ (v :: vs).dropLast, busyFlag s.cfg b = true)
    (hclear : busyFlag s.cfg ((v :: vs).getLast (List.cons_ne_nil v vs)) = false)
    (hdead : ∀ k, s.cfg.pollDeadline = some k → m + vs.length < k)
    (x : Byte) (hx : x = h ∨ x = h ||| s.cfg.sig.rw)
    (first : Byte → List Event) (hfirst : first = pollEvents s.cfg.sig x)
    (hf : NoFault s (tr ++ (first v ++ vs.flatMap (repollTrace s.cfg.sig h)))) :
    busyPoll fuel m (s.bus x dc dd tr n)
      = .ok (.done (s.bus (h ||| s.cfg.sig.rw) dc 0x00 (tr ++ (first v ++ vs.flatMap (repollTrace s.cfg.sig h)))
          (n + (vs.length + 1)))) := by
  induction vs generalizing x dd tr n m fuel v first with
  | nil =>
    obtain ⟨p1, p2, -, -⟩ := polled_polled hd hl
    have px : polled s.cfg.sig x = h ||| s.cfg.sig.rw := by rcases hx with rfl | rfl <;> assumption
    simp only [List.flatMap_nil, List.append_nil, hfirst] at hf ⊢
    have one := pollOnce_bus (dc := dc) (dd := dd) (vs := rest) (v := v) (by simpa using hv) hf
    have last : busyFlag s.cfg v = false := by simpa using hclear
    cases fuel <;> simp only [busyPoll, one, pollTest, State.bus_cfg, last, px, Bool.false_eq_true, if_false,
      List.length_nil, Nat.zero_add]
  | cons w ws ih =>
    obtain ⟨p1, p2, -, e2⟩ := polled_polled hd hl
    have px : polled s.cfg.sig x = h ||| s.cfg.sig.rw := by rcases hx with rfl | rfl <;> assumption
    obtain ⟨f, rfl⟩ : ∃ f, fuel = f + 1 := ⟨fuel - 1, by simp at hfuel; omega⟩
    have one := pollOnce_bus (dc := dc) (dd := dd) (sh := x) (tr := tr) (n := n) (vs := w :: ws ++ rest) (v := v)
      (by simpa using hv) (by
        refine NoFault.mono (b := (w :: ws).flatMap (repollTrace s.cfg.sig h)) ?_
        rw [List.append_assoc, ← hfirst]
        exact hf)
    have hb : busyFlag s.cfg v = true := hbusy v (by simp)
    have dead : deadlineReached s.cfg (m + 1) = false := by
      unfold deadlineReached
      split
      · rfl
      · next k hk =>
        have := hdead k hk
        simp only [List.length_cons] at this
        simp only [decide_eq_false_iff_not]
        omega
    have hv' : s.inputs.drop (n + 1) = w :: ws ++ rest := by
      rw [← List.drop_drop, hv]
      rfl
    have nf : NoFault s (tr ++ pollEvents s.cfg.sig x v ++ (repollTrace s.cfg.sig h w
        ++ ws.flatMap (repollTrace s.cfg.sig h))) := by
      rw [List.append_assoc, ← hfirst]
      simpa using hf
    simp only [busyPoll, one, pollTest, State.bus_cfg, hb, dead, if_true, Bool.false_eq_true, if_false, px]
    rw [ih (m := m + 1) (fuel := f) hv' (by simpa using hfuel)
      (fun b hb => hbusy b (by rw [List.dropLast_cons_of_ne_nil (List.cons_ne_nil _ _)]; exact List.mem_cons_of_mem _ hb))
      (by simpa using hclear) (fun k hk => by have := hdead k hk; simp only [List.length_cons] at this; omega)
      (h ||| s.cfg.sig.rw) (Or.inr rfl) (repollTrace s.cfg.sig h) e2.symm nf]
    simp only [hfirst, List.flatMap_cons, List.append_assoc, List.length_cons, Nat.add_assoc, Nat.add_comm 1]

end Sys2Proof.Machine
end

