-- ==== Sys2Proof/Laws/Transfers.lean ====
section
/-! SUPPORT. The transfers of 40_bus_primitives.md section 4 as whole changes of state: each lemma says what a run through one
transfer leaves, from any control byte without a poll and from idle levels with one. -/

namespace Sys2Proof.Machine

/-! ## What does not depend on the other fields -/

@[simp] theorem noFault_record (s : State) (op : LcdOp) (v : Byte) (tr : List Event) :
    NoFault (s.record op v) tr ↔ NoFault s tr := Iff.rfl
@[simp] theorem noFault_setCursor (s : State) (c r : Nat) (tr : List Event) :
    NoFault (s.setCursor c r) tr ↔ NoFault s tr := Iff.rfl
@[simp] theorem noFault_setMode (s : State) (m : WaitMode) (tr : List Event) :
    NoFault (s.setMode m) tr ↔ NoFault s tr := Iff.rfl
@[simp] theorem noFault_setCtrl (s : State) (c : Ctrl) (tr : List Event) : NoFault (s.setCtrl c) tr ↔ NoFault s tr := Iff.rfl
@[simp] theorem noFault_setPowered (s : State) (b : Bool) (tr : List Event) :
    NoFault (s.setPowered b) tr ↔ NoFault s tr := Iff.rfl
@[simp] theorem noFault_setPosOf (s : State) (k : Pot) (p : Nat) (tr : List Event) :
    NoFault (s.setPosOf k p) tr ↔ NoFault s tr := by cases k <;> exact Iff.rfl
@[simp] theorem noFault_pushOut (s : State) (v : Byte) (tr : List Event) : NoFault (s.pushOut v) tr ↔ NoFault s tr := Iff.rfl
@[simp] theorem noFault_begin (s : State) (tr : List Event) : NoFault s.begin tr ↔ NoFault s tr := Iff.rfl

/-- Bytes read into `out`. -/
def State.pushAll (s : State) (vs : List Byte) : State := { s with out := s.out ++ vs }

@[simp] theorem State.pushAll_nil (s : State) : s.pushAll [] = s := by simp [State.pushAll]
@[simp] theorem State.pushAll_cons (s : State) (v : Byte) (vs : List Byte) :
    (s.pushOut v).pushAll vs = s.pushAll (v :: vs) := by simp [State.pushAll, State.pushOut]
@[simp] theorem State.pushAll_cfg (s : State) (vs : List Byte) : (s.pushAll vs).cfg = s.cfg := rfl
@[simp] theorem State.pushAll_waitMode (s : State) (vs : List Byte) : (s.pushAll vs).waitMode = s.waitMode := rfl
@[simp] theorem State.pushAll_inputs (s : State) (vs : List Byte) : (s.pushAll vs).inputs = s.inputs := rfl
@[simp] theorem State.pushAll_out (s : State) (vs : List Byte) : (s.pushAll vs).out = s.out ++ vs := rfl
@[simp] theorem noFault_pushAll (s : State) (vs : List Byte) (tr : List Event) :
    NoFault (s.pushAll vs) tr ↔ NoFault s tr := Iff.rfl

/-! ## Byte algebra of the lines -/

theorem maskBits_true (m v : Byte) : maskBits m true v = v ||| m := rfl
theorem maskBits_false (m v : Byte) : maskBits m false v = v &&& ~~~m := rfl

/-- Clearing a signal and then a mask that holds it is clearing the mask. -/
theorem clear_clear (v a b : Byte) : (v &&& ~~~a ||| b) &&& ~~~(a ||| b) = v &&& ~~~(a ||| b) := by
  ext i hi
  simp only [BitVec.getElem_and, BitVec.getElem_or, BitVec.getElem_not]
  cases v[i] <;> cases a[i] <;> cases b[i] <;> rfl

/-! ## Steps of other fields -/

theorem run_record (op : LcdOp) (v : Byte) (ms : List Micro) (s : State) :
    run (.record op v :: ms) s = run ms (s.record op v) := rfl
theorem run_cursor (c r : Nat) (ms : List Micro) (s : State) : run (.cursor c r :: ms) s = run ms (s.setCursor c r) := rfl
theorem run_pos (k : Pot) (p : Nat) (ms : List Micro) (s : State) : run (.pos k p :: ms) s = run ms (s.setPosOf k p) := rfl
theorem run_mode (m : WaitMode) (ms : List Micro) (s : State) : run (.mode m :: ms) s = run ms (s.setMode m) := rfl
theorem run_ctrl (c : Ctrl) (ms : List Micro) (s : State) : run (.ctrl c :: ms) s = run ms (s.setCtrl c) := rfl
theorem run_powered (b : Bool) (ms : List Micro) (s : State) : run (.powered b :: ms) s = run ms (s.setPowered b) := rfl
theorem run_close (ms : List Micro) (s : State) : run (.close :: ms) s = run ms s.setClosed := rfl
theorem run_respond (s : State) : run [.respond] s = s.answer { status := .ok, data := s.out } := rfl

/-! ## Waiting -/

/-- In TimedDelay mode a wait is nothing (40_bus_primitives.md R138). -/
theorem run_wait_timed {s : State} (h : s.waitMode = .timedDelay) (ms : List Micro) : run (.wait :: ms) s = run ms s :=
  run_done (by simp only [perform, waitReady, h])

/-- In BusyPoll mode, from idle levels, a wait makes one whole poll (R138, R139). -/
theorem run_wait_polled {s : State} {sg : SigMap} {h dc dd : Byte} {tr : List Event} {n : Nat} {a : Answers}
    {rest : List Byte}
    (hsg : s.cfg.sig = sg) (hm : s.waitMode = .busyPoll) (hd : sg.Disjoint) (hl : h &&& lineMask sg = 0x00#8)
    (ha : a.Lawful s.cfg) (hv : s.inputs.drop n = a.bytes ++ rest)
    (hf : NoFault s (tr ++ pollsTrace sg h a.bytes)) (ms : List Micro) :
    run (.wait :: ms) (s.bus h dc dd tr n)
      = run ms (s.bus (h ||| sg.rw) dc 0x00 (tr ++ pollsTrace sg h a.bytes) (n + a.bytes.length)) := by
  subst hsg
  obtain ⟨-, -, e1, -⟩ := polled_polled hd hl
  obtain ⟨busy, clear⟩ := a
  obtain ⟨hb, hc, hk⟩ := ha
  refine run_done ?_
  have hlen : (s.bus h dc dd tr n).inputs.length = (busy ++ [clear] ++ rest).length := by
    rw [State.bus_inputs, hv]; rfl
  simp only [perform, waitReady, State.bus_waitMode, hm, hlen]
  simp only [Answers.bytes] at hv hf ⊢
  cases busy with
  | nil =>
    exact busyPoll_bus (vs := []) hd hl hv (by simp) (by simp) (by simpa using hc)
      (fun k e => by simpa using hk k e) h (Or.inl rfl) (pollTrace s.cfg.sig h) e1.symm hf
  | cons b bs =>
    have := busyPoll_bus (s := s) (dc := dc) (dd := dd) (tr := tr) (n := n) (m := 0) (v := b) (vs := bs ++ [clear])
      (rest := rest) (fuel := (b :: bs ++ [clear] ++ rest).length) hd hl hv (by simp)
      (fun x hx => hb x (by rwa [← List.cons_append, List.dropLast_concat] at hx))
      (by simpa using hc)
      (fun k e => by have := hk k e; simp only [List.length_append, List.length_cons, List.length_nil] at this ⊢; omega)
      h (Or.inl rfl) (pollTrace s.cfg.sig h) e1.symm hf
    simpa [pollsTrace, Nat.add_assoc] using this

/-! ## Commands (R140) -/

/-- The instruction-write cycle from any control byte (R140, step 3). -/
theorem run_instructionCycle {s : State} {sg : SigMap} {h dc dd : Byte} {tr : List Event} {n : Nat}
    (hsg : s.cfg.sig = sg) (b : Byte)
    (hf : NoFault s (tr ++ rawCmd sg h b)) (ms : List Micro) :
    run (instructionCycle sg b ++ ms) (s.bus h dc dd tr n)
      = run ms (s.bus (h &&& ~~~(lineMask sg)) dc dd (tr ++ rawCmd sg h b) n) := by
  subst hsg
  have ev : (Pins.mk h dc dd).events (instructionCycle s.cfg.sig b) = rawCmd s.cfg.sig h b := by
    simp only [instructionCycle, Pins.events, Pins.event, Pins.step, rawCmd, maskBits_true, maskBits_false, lineMask,
      clear_clear, List.cons_append, List.nil_append]
  have af : (Pins.mk h dc dd).after (instructionCycle s.cfg.sig b) = ⟨h &&& ~~~(lineMask s.cfg.sig), dc, dd⟩ := by
    simp only [instructionCycle, Pins.after, Pins.step, maskBits_true, maskBits_false, lineMask, clear_clear]
  have := run_drives (s := s) (p := ⟨h, dc, dd⟩) (tr := tr) (n := n) (instructionCycle s.cfg.sig b) ms rfl
    (by rw [ev]; exact hf)
  rw [ev, af] at this
  exact this

/-- A command without a poll, from any control byte (R140). -/
theorem run_command_timed {s : State} {sg : SigMap} {h dc dd : Byte} {tr : List Event} {n : Nat}
    (hsg : s.cfg.sig = sg) (op : LcdOp) (v : Byte)
    (hm : s.waitMode = .timedDelay) (hf : NoFault s (tr ++ rawCmd sg h (lcdOpcode op ||| v))) (ms : List Micro) :
    run (command sg op v ++ ms) (s.bus h dc dd tr n)
      = run ms ((s.record op v).bus (h &&& ~~~(lineMask sg)) dc dd
          (tr ++ rawCmd sg h (lcdOpcode op ||| v)) n) := by
  subst hsg
  rw [command, List.cons_append, run_wait_timed (by exact hm), List.append_assoc, run_instructionCycle rfl _ hf]
  simp only [List.cons_append, List.nil_append, run_record, State.bus_record]

/-- From RW high over idle levels, a command's events are `CMD(b)` (95_test_vectors.md section 0). -/
theorem rawCmd_polled {sg : SigMap} {h : Byte} (hl : h &&& lineMask sg = 0x00#8) (b : Byte) :
    rawCmd sg (h ||| sg.rw) b = cmdTrace sg h b ∧ (h ||| sg.rw) &&& ~~~(lineMask sg) = h := by
  have hl' := hl
  rw [lineMask, disjoint_or, disjoint_or] at hl'
  obtain ⟨⟨hrs, hrw⟩, hen⟩ := hl'
  have e1 : (h ||| sg.rw) &&& ~~~(sg.rs ||| sg.rw) = h := by
    have hs : h &&& (sg.rs ||| sg.rw) = 0x00#8 := disjoint_or.2 ⟨hrs, hrw⟩
    have : (h ||| sg.rw) &&& ~~~(sg.rs ||| sg.rw) = h &&& ~~~(sg.rs ||| sg.rw) := by
      ext i hi
      simp only [BitVec.getElem_and, BitVec.getElem_or, BitVec.getElem_not]
      cases h[i] <;> cases sg.rs[i] <;> cases sg.rw[i] <;> rfl
    rw [this, clear_of_disjoint hs]
  have e2 : (h ||| sg.rw) &&& ~~~(lineMask sg) = h := by
    have : (h ||| sg.rw) &&& ~~~(lineMask sg) = h &&& ~~~(lineMask sg) := by
      ext i hi
      simp only [lineMask, BitVec.getElem_and, BitVec.getElem_or, BitVec.getElem_not]
      cases h[i] <;> cases sg.rs[i] <;> cases sg.rw[i] <;> cases sg.en[i] <;> rfl
    rw [this, clear_of_disjoint hl]
  exact ⟨by simp only [rawCmd, cmdTrace, e1, e2], e2⟩

/-- A command after its poll, from idle levels (R140, R144). -/
theorem run_command_polled {s : State} {sg : SigMap} {h dc dd : Byte} {tr : List Event} {n : Nat} {a : Answers}
    {rest : List Byte}
    (hsg : s.cfg.sig = sg) (op : LcdOp) (v : Byte) (hm : s.waitMode = .busyPoll) (hd : sg.Disjoint)
    (hl : h &&& lineMask sg = 0x00#8) (ha : a.Lawful s.cfg) (hv : s.inputs.drop n = a.bytes ++ rest)
    (hf : NoFault s (tr ++ polledCmd sg h a (lcdOpcode op ||| v))) (ms : List Micro) :
    run (command sg op v ++ ms) (s.bus h dc dd tr n)
      = run ms ((s.record op v).bus h dc 0x00 (tr ++ polledCmd sg h a (lcdOpcode op ||| v))
          (n + a.bytes.length)) := by
  subst hsg
  obtain ⟨r1, r2⟩ := rawCmd_polled hl (lcdOpcode op ||| v)
  have hf' : NoFault s (tr ++ pollsTrace s.cfg.sig h a.bytes ++ cmdTrace s.cfg.sig h (lcdOpcode op ||| v)) := by
    rw [List.append_assoc]; exact hf
  rw [command, List.cons_append, run_wait_polled rfl hm hd hl ha hv (NoFault.mono hf'), List.append_assoc,
    run_instructionCycle rfl _ (by rw [r1]; exact hf')]
  simp only [List.cons_append, List.nil_append, run_record, State.bus_record, r1, r2, List.append_assoc, polledCmd]

/-! ## Data blocks (R142, R143) -/

/-- The data-write cycles from any control byte with RS and RW at idle after the setup (R142). -/
theorem run_writeCycles {s : State} {sg : SigMap} {h x dc dd : Byte} {tr : List Event} {n : Nat}
    (hsg : s.cfg.sig = sg) (bs : List Byte)
    (hd : sg.Disjoint) (hl : h &&& lineMask sg = 0x00#8) (hx : x = h ∨ x = h ||| sg.rw)
    (hf : NoFault s (tr ++ blkTrace sg h bs)) (ms : List Micro) :
    run (writeCycles sg bs ++ ms) (s.bus x dc dd tr n)
      = run ms (s.bus h dc dd (tr ++ blkTrace sg h bs) n) := by
  subst hsg
  have hl' := hl
  rw [lineMask, disjoint_or, disjoint_or] at hl'
  obtain ⟨⟨hrs, hrw⟩, hen⟩ := hl'
  have e1 : x &&& ~~~s.cfg.sig.rw = h := by
    rcases hx with rfl | rfl
    · exact clear_of_disjoint hrw
    · exact set_clear_of_disjoint hrw
  have e2 : (h ||| s.cfg.sig.rs ||| s.cfg.sig.en) &&& ~~~s.cfg.sig.en = h ||| s.cfg.sig.rs :=
    set_clear_of_disjoint (or_disjoint.2 ⟨hen, hd.rs_en⟩)
  have e3 : (h ||| s.cfg.sig.rs) &&& ~~~(lineMask s.cfg.sig) = h := by
    have : (h ||| s.cfg.sig.rs) &&& ~~~(lineMask s.cfg.sig) = h &&& ~~~(lineMask s.cfg.sig) := by
      ext i hi
      simp only [lineMask, BitVec.getElem_and, BitVec.getElem_or, BitVec.getElem_not]
      cases h[i] <;> cases s.cfg.sig.rs[i] <;> cases s.cfg.sig.rw[i] <;> cases s.cfg.sig.en[i] <;> rfl
    rw [this, clear_of_disjoint hl]
  have pulses : ∀ bs : List Byte,
      (Pins.mk (h ||| s.cfg.sig.rs) dc dd).events (bs.flatMap (blockByte s.cfg.sig))
          = bs.flatMap (fun b => [.wc (h ||| s.cfg.sig.rs ||| s.cfg.sig.en), .wd b, .wc (h ||| s.cfg.sig.rs)])
        ∧ (Pins.mk (h ||| s.cfg.sig.rs) dc dd).after (bs.flatMap (blockByte s.cfg.sig)) = ⟨h ||| s.cfg.sig.rs, dc, dd⟩
        ∧ (bs.flatMap (blockByte s.cfg.sig)).all Micro.drives = true := by
    intro bs
    induction bs with
    | nil => exact ⟨rfl, rfl, rfl⟩
    | cons b bs ih =>
      obtain ⟨i1, i2, i3⟩ := ih
      have st : (Pins.mk (h ||| s.cfg.sig.rs) dc dd).after (blockByte s.cfg.sig b) = ⟨h ||| s.cfg.sig.rs, dc, dd⟩ := by
        simp only [blockByte, Pins.after, Pins.step, maskBits_true, maskBits_false, e2]
      refine ⟨?_, ?_, ?_⟩
      · rw [List.flatMap_cons, Pins.events_append, st, i1]
        simp only [blockByte, Pins.events, Pins.event, Pins.step, maskBits_true, maskBits_false, e2,
          List.flatMap_cons, List.cons_append, List.nil_append]
      · rw [List.flatMap_cons, Pins.after_append, st, i2]
      · rw [List.flatMap_cons, List.all_append, i3]
        rfl
  obtain ⟨p1, p2, p3⟩ := pulses bs
  have ev : (Pins.mk x dc dd).events (writeCycles s.cfg.sig bs) = blkTrace s.cfg.sig h bs := by
    simp only [writeCycles, List.cons_append, List.nil_append, Pins.events, Pins.event, Pins.step, maskBits_true,
      maskBits_false, e1, Pins.events_append, p1, p2, e3, blkTrace, List.append_nil]
  have af : (Pins.mk x dc dd).after (writeCycles s.cfg.sig bs) = ⟨h, dc, dd⟩ := by
    simp only [writeCycles, List.cons_append, List.nil_append, Pins.after, Pins.step, maskBits_true,
      maskBits_false, e1, Pins.after_append, p2, e3]
  have al : (writeCycles s.cfg.sig bs).all Micro.drives = true := by
    simp only [writeCycles, List.all_append, p3]
    rfl
  have := run_drives (s := s) (p := ⟨x, dc, dd⟩) (tr := tr) (n := n) (writeCycles s.cfg.sig bs) ms al
    (by rw [ev]; exact hf)
  rw [ev, af] at this
  exact this

/-- A block of at least one byte after its poll, from idle levels (R142). -/
theorem run_writeBlock_polled {s : State} {sg : SigMap} {h dc dd : Byte} {tr : List Event} {n : Nat} {a : Answers}
    {rest : List Byte}
    (hsg : s.cfg.sig = sg) (b : Byte) (bs : List Byte) (hm : s.waitMode = .busyPoll) (hd : sg.Disjoint)
    (hl : h &&& lineMask sg = 0x00#8) (ha : a.Lawful s.cfg) (hv : s.inputs.drop n = a.bytes ++ rest)
    (hf : NoFault s (tr ++ (pollsTrace sg h a.bytes ++ blkTrace sg h (b :: bs)))) (ms : List Micro) :
    run (writeBlock sg (b :: bs) ++ ms) (s.bus h dc dd tr n)
      = run ms (s.bus h dc 0x00 (tr ++ (pollsTrace sg h a.bytes ++ blkTrace sg h (b :: bs)))
          (n + a.bytes.length)) := by
  subst hsg
  rw [← List.append_assoc] at hf
  rw [writeBlock, List.cons_append, run_wait_polled rfl hm hd hl ha hv (NoFault.mono hf),
    run_writeCycles rfl _ hd hl (Or.inr rfl) hf, List.append_assoc]

/-- Sampling the bytes `vs` of a read block, one EN pulse each (R143). -/
theorem run_readBytes {s : State} {sg : SigMap} {h dc dd : Byte} {tr : List Event} {n : Nat} {rest : List Byte}
    (hsg : s.cfg.sig = sg) (vs : List Byte)
    (he : h &&& sg.en = 0x00#8) (hv : s.inputs.drop n = vs ++ rest)
    (hf : NoFault s (tr ++ vs.flatMap (fun v => [.wc (h ||| sg.en), .rd v, .wc h]))) (ms : List Micro) :
    run ((List.replicate vs.length (readByte sg)).flatten ++ ms) (s.bus h dc dd tr n)
      = run ms ((s.pushAll vs).bus h dc dd (tr ++ vs.flatMap (fun v => [.wc (h ||| sg.en), .rd v, .wc h]))
          (n + vs.length)) := by
  subst hsg
  induction vs generalizing s tr n with
  | nil => simp
  | cons v vs ih =>
    have e : (h ||| s.cfg.sig.en) &&& ~~~s.cfg.sig.en = h := set_clear_of_disjoint he
    have cut : ∀ a b, [Event.wc (h ||| s.cfg.sig.en), .rd v, .wc h] = a ++ b → NoFault s (tr ++ a) := by
      intro a b hab
      refine NoFault.mono (b := b ++ vs.flatMap (fun v => [.wc (h ||| s.cfg.sig.en), .rd v, .wc h])) ?_
      rw [List.append_assoc, ← List.append_assoc a, ← hab]
      exact hf
    have one : run (readByte s.cfg.sig ++ ((List.replicate vs.length (readByte s.cfg.sig)).flatten ++ ms))
        (s.bus h dc dd tr n)
          = run ((List.replicate vs.length (readByte s.cfg.sig)).flatten ++ ms)
              ((s.pushOut v).bus h dc dd (tr ++ [.wc (h ||| s.cfg.sig.en), .rd v, .wc h]) (n + 1)) := by
      rw [readByte, List.cons_append, List.cons_append, List.cons_append, List.nil_append]
      rw [run_done (by
        simp only [perform]
        rw [setSignal_bus _ _ (by rw [maskBits_true]; exact cut [_] _ rfl)]
        rfl)]
      rw [run_done (by
        simp only [perform]
        rw [portIn_bus (v := v) (vs := vs ++ rest) (by simpa using hv)
          (by rw [maskBits_true, List.append_assoc]; exact cut [_, _] _ rfl)])]
      simp only [State.bus_pushOut]
      rw [run_done (by
        simp only [perform]
        rw [setSignal_bus _ _ (by
          rw [maskBits_true, maskBits_false, List.append_assoc, List.append_assoc, e]
          exact cut [_, _, _] [] rfl)]
        rfl)]
      simp only [maskBits_true, maskBits_false, e, List.append_assoc, List.cons_append, List.nil_append]
    have next := ih (s := s.pushOut v) (tr := tr ++ [.wc (h ||| s.cfg.sig.en), .rd v, .wc h]) (n := n + 1)
      (by rw [State.pushOut_inputs, ← List.drop_drop, hv, List.cons_append, List.drop_succ_cons, List.drop_zero]) he (by
        rw [noFault_pushOut, List.append_assoc]
        exact hf)
    simp only [State.pushOut_cfg, State.pushAll_cons] at next
    rw [List.length_cons, List.replicate_succ, List.flatten_cons, List.append_assoc, one, next]
    simp only [List.flatMap_cons, List.append_assoc, Nat.add_assoc, Nat.add_comm 1]

/-- The data-read cycles of at least one byte from any control byte with RS or RW at idle or high (R143). -/
theorem run_readCycles {s : State} {sg : SigMap} {h x dc : Byte} {tr : List Event} {n : Nat} {rest : List Byte}
    (hsg : s.cfg.sig = sg) (vs : List Byte)
    (hd : sg.Disjoint) (hl : h &&& lineMask sg = 0x00#8) (hx : x = h ||| sg.rw)
    (hv : s.inputs.drop n = vs ++ rest) (hf : NoFault s (tr ++ rblkTrace sg h vs)) (ms : List Micro) :
    run (readCycles sg vs.length ++ ms) (s.bus x dc 0x00 tr n)
      = run ms ((s.pushAll vs).bus h dc 0x00 (tr ++ rblkTrace sg h vs) (n + vs.length)) := by
  subst hsg
  subst hx
  have hl' := hl
  rw [lineMask, disjoint_or, disjoint_or] at hl'
  obtain ⟨⟨hrs, hrw⟩, hen⟩ := hl'
  have e0 : h ||| s.cfg.sig.rw ||| s.cfg.sig.rs = h ||| s.cfg.sig.rs ||| s.cfg.sig.rw := by
    rw [BitVec.or_assoc, BitVec.or_comm s.cfg.sig.rw, ← BitVec.or_assoc]
  have e1 : h ||| s.cfg.sig.rs ||| s.cfg.sig.rw ||| s.cfg.sig.rw = h ||| s.cfg.sig.rs ||| s.cfg.sig.rw := by
    rw [BitVec.or_assoc, BitVec.or_self]
  have e2 : (h ||| s.cfg.sig.rs ||| s.cfg.sig.rw) &&& s.cfg.sig.en = 0x00#8 :=
    or_disjoint.2 ⟨or_disjoint.2 ⟨hen, hd.rs_en⟩, hd.rw_en⟩
  have e3 : (h ||| s.cfg.sig.rs ||| s.cfg.sig.rw) &&& ~~~(lineMask s.cfg.sig) = h := by
    have : (h ||| s.cfg.sig.rs ||| s.cfg.sig.rw) &&& ~~~(lineMask s.cfg.sig) = h &&& ~~~(lineMask s.cfg.sig) := by
      ext i hi
      simp only [lineMask, BitVec.getElem_and, BitVec.getElem_or, BitVec.getElem_not]
      cases h[i] <;> cases s.cfg.sig.rs[i] <;> cases s.cfg.sig.rw[i] <;> cases s.cfg.sig.en[i] <;> rfl
    rw [this, clear_of_disjoint hl]
  have split1 : rblkTrace s.cfg.sig h vs
      = [.wc (h ||| s.cfg.sig.rs ||| s.cfg.sig.rw), .wc (h ||| s.cfg.sig.rs ||| s.cfg.sig.rw), .dir .data 0xFF]
        ++ (vs.flatMap (fun v => [.wc (h ||| s.cfg.sig.rs ||| s.cfg.sig.rw ||| s.cfg.sig.en), .rd v,
              .wc (h ||| s.cfg.sig.rs ||| s.cfg.sig.rw)]) ++ [.dir .data 0x00, .wc h]) := by
    simp only [rblkTrace, List.append_assoc]
  rw [split1, ← List.append_assoc, ← List.append_assoc] at hf
  have st := run_drives (s := s) (p := ⟨h ||| s.cfg.sig.rw, dc, 0x00⟩) (tr := tr) (n := n)
    [.signal s.cfg.sig.rs true, .signal s.cfg.sig.rw true, .dir .data 0xFF true]
    ((List.replicate vs.length (readByte s.cfg.sig)).flatten
      ++ ([.dir .data 0xFF false, .signal (lineMask s.cfg.sig) false] ++ ms)) rfl (by
        simp only [Pins.events, Pins.event_signal, Pins.event_dataPort, Pins.step_signal, maskBits_true, e0, e1,
          List.cons_append, List.nil_append, if_true]
        exact NoFault.mono (NoFault.mono hf))
  simp only [Pins.events, Pins.event_signal, Pins.event_dataPort, Pins.step_signal, Pins.step_dataPort, Pins.after,
    maskBits_true, e0, e1, List.cons_append, List.nil_append, if_true] at st
  have fin := run_drives (s := s.pushAll vs) (p := ⟨h ||| s.cfg.sig.rs ||| s.cfg.sig.rw, dc, 0xFF⟩)
    (tr := tr ++ [.wc (h ||| s.cfg.sig.rs ||| s.cfg.sig.rw), .wc (h ||| s.cfg.sig.rs ||| s.cfg.sig.rw),
      .dir .data 0xFF] ++ vs.flatMap (fun v => [.wc (h ||| s.cfg.sig.rs ||| s.cfg.sig.rw ||| s.cfg.sig.en), .rd v,
              .wc (h ||| s.cfg.sig.rs ||| s.cfg.sig.rw)])) (n := n + vs.length)
    [.dir .data 0xFF false, .signal (lineMask s.cfg.sig) false] ms rfl (by
      simp only [Pins.events, Pins.event_signal, Pins.event_dataPort, Pins.step_dataPort, maskBits_false, e3,
        List.cons_append, List.nil_append, Bool.false_eq_true, if_false]
      exact hf)
  simp only [Pins.events, Pins.event_signal, Pins.event_dataPort, Pins.step_signal, Pins.step_dataPort, Pins.after,
    maskBits_false, e3, List.cons_append, List.nil_append, Bool.false_eq_true, if_false] at fin
  rw [split1]
  simp only [readCycles, List.append_assoc, List.cons_append, List.nil_append]
  rw [st, run_readBytes rfl vs e2 hv (NoFault.mono hf), fin]
  simp only [List.append_assoc, List.cons_append, List.nil_append]

/-! ## Potentiometers (43_potentiometer.md) -/

/-- A burst (R244), whatever the control byte. -/
theorem run_burst {s : State} {sg : SigMap} {h dc dd : Byte} {tr : List Event} {n : Nat} (hsg : s.cfg.sig = sg) (k : Pot)
    (up : Bool) (m : Nat) (hu : sg.ud &&& selectMask sg k = 0x00#8)
    (hf : NoFault s (tr ++ burstTrace sg (selectMask sg k) up m h)) (ms : List Micro) :
    run (burst sg k up m ++ ms) (s.bus h dc dd tr n)
      = run ms (s.bus ((if up then h ||| sg.ud else h &&& ~~~sg.ud) ||| selectMask sg k) dc dd
          (tr ++ burstTrace sg (selectMask sg k) up m h) n) := by
  subst hsg
  obtain ⟨ud, hud⟩ : ∃ ud, s.cfg.sig.ud = ud := ⟨_, rfl⟩
  obtain ⟨cs, hcs⟩ : ∃ cs, selectMask s.cfg.sig k = cs := ⟨_, rfl⟩
  obtain ⟨f, hfirst⟩ : ∃ f, (if up then h ||| ud else h &&& ~~~ud) = f := ⟨_, rfl⟩
  rw [hud, hcs] at hu
  have bit : ∀ i (hi : i < 8), ud[i] = true → cs[i] = false := by
    intro i hi h1
    have h2 := congrArg (fun b => b.getLsbD i) hu
    simp [BitVec.getLsbD_eq_getElem hi, h1] at h2
    exact h2
  have first : maskBits ud up h = f := hfirst
  have away : maskBits ud (!up) (f &&& ~~~cs) = (if up then h &&& ~~~ud else h ||| ud) &&& ~~~cs := by
    subst hfirst
    ext i hi
    have := bit i hi
    cases up <;> simp only [maskBits, Bool.not_true, Bool.not_false, Bool.false_eq_true, if_true, if_false,
      BitVec.getElem_and, BitVec.getElem_or, BitVec.getElem_not] <;>
      cases h[i] <;> cases hb : ud[i] <;> cases hc : cs[i] <;> simp_all
  have back : maskBits ud up ((if up then h &&& ~~~ud else h ||| ud) &&& ~~~cs) = f &&& ~~~cs := by
    subst hfirst
    ext i hi
    have := bit i hi
    cases up <;> simp only [maskBits, Bool.false_eq_true, if_true, if_false,
      BitVec.getElem_and, BitVec.getElem_or, BitVec.getElem_not] <;>
      cases h[i] <;> cases hb : ud[i] <;> cases hc : cs[i] <;> simp_all
  have release : (f &&& ~~~cs) ||| cs = f ||| cs := by
    ext i hi
    simp only [BitVec.getElem_and, BitVec.getElem_or, BitVec.getElem_not]
    cases f[i] <;> cases cs[i] <;> rfl
  have pulses : ∀ m,
      (Pins.mk (f &&& ~~~cs) dc dd).events (List.replicate m (burstPulse s.cfg.sig up)).flatten
          = (List.replicate m [Event.wc ((if up then h &&& ~~~ud else h ||| ud) &&& ~~~cs),
              Event.wc (f &&& ~~~cs)]).flatten
        ∧ (Pins.mk (f &&& ~~~cs) dc dd).after (List.replicate m (burstPulse s.cfg.sig up)).flatten
          = ⟨f &&& ~~~cs, dc, dd⟩
        ∧ (List.replicate m (burstPulse s.cfg.sig up)).flatten.all Micro.drives = true := by
    intro m
    induction m with
    | zero => exact ⟨rfl, rfl, rfl⟩
    | succ m ih =>
      obtain ⟨i1, i2, i3⟩ := ih
      have st : (Pins.mk (f &&& ~~~cs) dc dd).after (burstPulse s.cfg.sig up) = ⟨f &&& ~~~cs, dc, dd⟩ := by
        simp only [burstPulse, Pins.after, Pins.step_signal, hud, away, back]
      refine ⟨?_, ?_, ?_⟩
      · rw [List.replicate_succ, List.flatten_cons, Pins.events_append, st, i1, List.replicate_succ, List.flatten_cons]
        simp only [burstPulse, Pins.events, Pins.event_signal, Pins.step_signal, hud, away, back, List.cons_append,
          List.nil_append]
      · rw [List.replicate_succ, List.flatten_cons, Pins.after_append, st, i2]
      · rw [List.replicate_succ, List.flatten_cons, List.all_append, i3]
        rfl
  obtain ⟨p1, p2, p3⟩ := pulses m
  have tr1 : burstTrace s.cfg.sig (selectMask s.cfg.sig k) up m h
      = [.wc f, .wc (f &&& ~~~cs)] ++ (List.replicate m [Event.wc ((if up then h &&& ~~~ud else h ||| ud) &&& ~~~cs),
              Event.wc (f &&& ~~~cs)]).flatten ++ [.wc (f ||| cs)] := by
    simp only [burstTrace, hud, hcs, hfirst]
  have ev : (Pins.mk h dc dd).events (burst s.cfg.sig k up m) = burstTrace s.cfg.sig (selectMask s.cfg.sig k) up m h := by
    rw [tr1]
    simp only [burst, List.cons_append, List.nil_append, Pins.events, Pins.event_signal, Pins.step_signal, hud, hcs, first,
      Pins.events_append, maskBits_false, maskBits_true, p1, p2, release, List.append_nil]
  have af : (Pins.mk h dc dd).after (burst s.cfg.sig k up m) = ⟨f ||| cs, dc, dd⟩ := by
    simp only [burst, List.cons_append, List.nil_append, Pins.after, Pins.step_signal, hud, hcs, first,
      Pins.after_append, maskBits_false, maskBits_true, p2, release]
  have al : (burst s.cfg.sig k up m).all Micro.drives = true := by
    simp only [burst, List.all_append, p3]
    rfl
  have := run_drives (s := s) (p := ⟨h, dc, dd⟩) (tr := tr) (n := n) (burst s.cfg.sig k up m) ms al
    (by rw [ev]; exact hf)
  rw [ev, af] at this
  rw [hud, hcs, hfirst]
  rw [hcs] at this
  exact this

/-- `set(k, t)` (R245). -/
theorem run_setWiper {s : State} {sg : SigMap} {h dc dd : Byte} {tr : List Event} {n : Nat} (hsg : s.cfg.sig = sg) (k : Pot)
    (target : Nat) (hu : sg.ud &&& selectMask sg k = 0x00#8)
    (hf : NoFault s (tr ++ wiperTrace sg (selectMask sg k) h (s.posOf k) (min target 63))) (ms : List Micro) :
    run (setWiper sg k (s.posOf k) target ++ ms) (s.bus h dc dd tr n)
      = run ms ((s.setPosOf k (min target 63)).bus (wiperShadow sg (selectMask sg k) h (s.posOf k) (min target 63)) dc dd
          (tr ++ wiperTrace sg (selectMask sg k) h (s.posOf k) (min target 63)) n) := by
  have ht : clampWiper target = min target 63 := rfl
  simp only [setWiper, ht]
  by_cases h0 : min target 63 = s.posOf k
  · have hp : s.setPosOf k (s.posOf k) = s := by cases k <;> rfl
    simp only [Int.sub_self, if_true, wiperTrace, wiperShadow, h0, hp, List.append_nil, List.nil_append]
  · have hd : ((min target 63 : Nat) : Int) - (s.posOf k : Int) ≠ 0 := by omega
    have hn : (((min target 63 : Nat) : Int) - (s.posOf k : Int)).natAbs
        = max (s.posOf k) (min target 63) - min (s.posOf k) (min target 63) := by omega
    have hb : decide (0 < ((min target 63 : Nat) : Int) - (s.posOf k : Int)) = decide (s.posOf k < min target 63) := by
      rw [decide_eq_decide]; omega
    simp only [wiperTrace, if_neg h0] at hf
    simp only [if_neg hd, hn, hb, List.append_assoc, wiperTrace, wiperShadow, if_neg h0]
    rw [run_burst hsg k _ _ hu hf, List.cons_append, List.nil_append, run_pos, State.bus_setPosOf]
    by_cases hlt : s.posOf k < min target 63 <;> simp [hlt]

end Sys2Proof.Machine
end

