-- ==== Sys2Proof/Tests/Slice0.lean ====
section
/-! SUPPORT. The model's own tests. Expected values are the spec's: words written out from 30_encoding.md R91, R92, R100 and
R101, events and end states from 95_test_vectors.md and the rules' examples. Then one witness for the hypotheses of each
statement. -/

open Sys2Proof Sys2Proof.Machine

/-! ## Well-formedness -/

theorem test_wf_glyph_short : Instr.wf (.defineGlyph 0 [1, 2, 3, 4, 5, 6, 7]) = false := by decide
theorem test_wf_glyph_long : Instr.wf (.defineGlyph 0 [1, 2, 3, 4, 5, 6, 7, 8, 9]) = false := by decide
theorem test_wf_glyph : Instr.wf (.defineGlyph 7 [1, 2, 3, 4, 5, 6, 7, 8]) = true := by decide
theorem test_wf_default_sig : Config.defaults.wf = true := by decide
theorem test_wf_sig_repeated : SigMap.wf { Config.defaultSig with rw := 0x01 } = false := by decide

/-! ## Decoding: every constructor, by a word written out field by field -/

/-- Decode under the default wiring, refusals dropped. -/
def dec (c : Code) : Option Instr := (decode Config.defaultSig c).toOption

theorem test_decode_powerOn : dec (.request 0b00000000_00000000_00000000_00000001 []) = some .powerOn := by decide
theorem test_decode_powerOff : dec (.request 0b00000000_00000000_00000000_00000010 []) = some .powerOff := by decide
theorem test_decode_clear : dec (.request 0b00000000_00000000_00000000_00000011 []) = some .clear := by decide
theorem test_decode_home : dec (.request 0b00000000_00000000_00000000_00000100 []) = some .home := by decide
theorem test_decode_setCursor : dec (.request 0b00000000_00000001_00000011_00000101 []) = some (.setCursor 3 1) := by decide
theorem test_decode_print : dec (.request 0b00000000_00000000_00000000_00000110 [0x48]) = some (.print [0x48]) := by decide
theorem test_decode_defineGlyph : dec (.request 0b00000000_00000000_00000010_00000111 [0, 10, 31, 31, 14, 4, 0, 0])
    = some (.defineGlyph 2 [0, 10, 31, 31, 14, 4, 0, 0]) := by decide
theorem test_decode_setContrast : dec (.request 0b00000000_00000000_11001000_00001000 []) = some (.setContrast 200) := by decide
theorem test_decode_setBacklight : dec (.request 0b00000000_00000000_00000011_00001001 []) = some (.setBacklight 3) := by decide
theorem test_decode_setBlink : dec (.request 0b00000000_00000000_00000001_00001010 []) = some (.setBlink true) := by decide
theorem test_decode_setBlink_ignored : dec (.request 0b00000000_00000000_00000010_00001010 []) = some (.setBlink false) := by
  decide
theorem test_decode_setCursorVisible : dec (.request 0b00000000_00000000_00000001_00001011 [])
    = some (.setCursorVisible true) := by decide
theorem test_decode_setDisplayVisible : dec (.request 0b00000000_00000000_00000000_00001100 [])
    = some (.setDisplayVisible false) := by decide
theorem test_decode_readRow : dec (.request 0b00000000_00000000_00000001_00001101 []) = some (.readRow 1) := by decide
theorem test_decode_close : dec (.request 0b00000000_00000000_00000000_00001110 []) = some .close := by decide
theorem test_decode_contrastInc : dec (.request 0b00000000_00000000_00000000_00010000 []) = some .contrastInc := by decide
theorem test_decode_contrastDec : dec (.request 0b00000000_00000000_00000000_00010001 []) = some .contrastDec := by decide
theorem test_decode_backlightInc : dec (.request 0b00000000_00000000_00000000_00010010 []) = some .backlightInc := by decide
theorem test_decode_backlightDec : dec (.request 0b00000000_00000000_00000000_00010011 []) = some .backlightDec := by decide
theorem test_decode_hdClear : dec (.lcd 0b0000_0001) = some .hdClear := by decide
theorem test_decode_hdHome : dec (.lcd 0b0000_0010) = some .hdHome := by decide
theorem test_decode_hdHome_dontCare : dec (.lcd 0b0000_0011) = some .hdHome := by decide
theorem test_decode_hdEntryMode : dec (.lcd 0b0000_0110) = some (.hdEntryMode true false) := by decide
theorem test_decode_hdDisplayCtrl : dec (.lcd 0b0000_1101) = some (.hdDisplayCtrl true false true) := by decide
theorem test_decode_hdShift : dec (.lcd 0b0001_0111) = some (.hdShift false true) := by decide
theorem test_decode_hdFunctionSet : dec (.lcd 0b0011_1000) = some (.hdFunctionSet true true false) := by decide
theorem test_decode_hdSetCgramAddress : dec (.lcd 0b0111_1000) = some (.hdSetCgramAddress 0x38) := by decide
theorem test_decode_hdSetDdramAddress : dec (.lcd 0b1100_0011) = some (.hdSetDdramAddress 0x43) := by decide
theorem test_decode_busInstructionWrite : dec (.bus 0b1011_0100 0x38) = some (.busInstructionWrite 0x38) := by decide
theorem test_decode_busBusyRead : dec (.bus 0b1011_0110 0x00) = some .busBusyRead := by decide
theorem test_decode_busDataWrite : dec (.bus 0b1011_0101 0x41) = some (.busDataWrite 0x41) := by decide
theorem test_decode_busDataRead : dec (.bus 0b1011_0111 0x00) = some .busDataRead := by decide

/-- R93 (a) to (d), and the order of R94. -/
theorem test_decode_reserved : decode Config.defaultSig (.request 0x0100000F []) = .error .reservedField := by rfl
theorem test_decode_unknown : [0x00#32, 0x0F#32, 0x14#32, 0xFF#32].map (fun w => dec (.request w [])) = [none, none, none, none] := by
  decide
theorem test_decode_payload : decode Config.defaultSig (.request 0x03 [0x41]) = .error .payloadNotEmpty := by rfl
theorem test_decode_glyph_length : decode Config.defaultSig (.request 0x07 [1, 2, 3, 4, 5, 6, 7]) = .error .glyphLength := by rfl
theorem test_decode_no_lcd : decode Config.defaultSig (.lcd 0x00) = .error .noLcdInstruction := by rfl
theorem test_decode_no_cycle : decode Config.defaultSig (.bus 0xB3 0x00) = .error .noBusCycle := by rfl
theorem test_tableWord : decodeTableWord 32 7 = some (.defineGlyph 0 (List.replicate 8 0x00)) ∧
    decodeTableWord 8 0x05 = some (.busDataWrite 0x00) ∧ decodeTableWord 8 0x08 = some (.hdDisplayCtrl false false false) := by
  decide

/-! ## Single steps (95_test_vectors.md) -/

/-- The state of vector S1, after POWER_ON from reset, with the answers `vs` of the next reads. -/
def ready (vs : List Byte) : State :=
  { State.reset with
    shadow := 0xB0
    dirControl := 0x08
    dirData := 0x00
    cs := { State.reset.cs with functionSet := 0x18, displayCtrl := 0x04, entryMode := 0x02 }
    waitMode := .busyPoll
    ctrl := .ready
    powered := true
    inputs := vs }

/-- A field of the state after an instruction. -/
def see {α : Type} (i : Instr) (s : State) (f : State → α) : Option α :=
  match exec i s with
  | .next t => some (f t)
  | .fault _ => none
  | .refused _ => none

theorem test_reset_powerOn_state : see .powerOn State.reset
    (fun t => (t.ctrl, t.shadow, t.dirControl, t.dirData, t.cs.functionSet, t.trace.length))
      = some (.ready, 0xB0, 0x08, 0x00, 0x18, 42) := by decide
theorem test_reset_powerOn_trace : see .powerOn State.reset (fun t => t.trace.take 11)
    = some [.dir .control 0x78, .dir .data 0x00, .dir .control 0x28, .wc 0x10, .dir .control 0x08, .wc 0x30, .wc 0xB0,
        .wc 0xB0, .wc 0xB4, .wd 0x38, .wc 0xB0] := by decide
theorem test_powerOff : see .powerOff (ready []) (fun t => (t.trace, t.ctrl, t.powered))
    = some ([.dir .control 0x58, .dir .control 0x78, .wc 0x30], .uninitialized, false) := by decide
theorem test_close : see .close (ready []) (fun t => (t.trace, t.closed))
    = some ([.dir .control 0x58, .dir .control 0x78, .wc 0x30, .dir .control 0xFF, .dir .data 0xFF], true) := by decide
theorem test_clear : see .clear (ready [0x00]) (fun t => t.trace)
    = some [.wc 0xB0, .wc 0xB2, .dir .data 0xFF, .wc 0xB6, .rd 0x00, .wc 0xB2, .dir .data 0x00, .wc 0xB0, .wc 0xB4, .wd 0x01,
        .wc 0xB0] := by decide
theorem test_home : see .home (ready [0x80, 0x05]) (fun t => (t.trace.length, t.trace.contains (.wd 0x02), t.col, t.row))
    = some (18, true, 0, 0) := by decide
theorem test_setCursor : see (.setCursor 3 1) (ready [0x00]) (fun t => (t.col, t.row, t.cs.setDdramAddress, t.trace.contains (.wd 0xC3)))
    = some (3, 1, 0x43, true) := by decide
theorem test_setCursor_wraps : see (.setCursor 16 2) (ready [0x00]) (fun t => (t.col, t.row)) = some (0, 0) := by decide
theorem test_print : see (.print [0x48, 0x69]) (ready [0, 0]) (fun t => (t.col, t.row, t.trace.drop 18))
    = some (2, 0, [.wc 0xB0, .wc 0xB1, .wc 0xB5, .wd 0x48, .wc 0xB1, .wc 0xB5, .wd 0x69, .wc 0xB1, .wc 0xB0]) := by decide
theorem test_defineGlyph : see (.defineGlyph 1 [0x1F, 0x11, 0x11, 0x11, 0x11, 0x11, 0x11, 0x1F])
    { ready [0, 0, 0] with col := 3, row := 1 }
      (fun t => (t.trace.contains (.wd 0x48), t.trace.contains (.wd 0xC3), t.trace.length, t.col, t.row))
        = some (true, true, 56, 3, 1) := by decide
theorem test_defineGlyph_range : see (.defineGlyph 8 (List.replicate 8 0x00)) (ready [0]) (fun t => (t.response, t.trace))
    = some (some { status := .rangeError, data := [] }, []) := by decide
theorem test_setContrast : see (.setContrast 3) (ready []) (fun t => (t.contrast, t.trace))
    = some (3, [.wc 0xF0, .wc 0xE0, .wc 0xA0, .wc 0xE0, .wc 0xA0, .wc 0xE0, .wc 0xA0, .wc 0xE0, .wc 0xF0]) := by decide
theorem test_setContrast_same : see (.setContrast 0) (ready []) (fun t => t.trace) = some [] := by decide
theorem test_setBacklight : see (.setBacklight 3) { ready [] with backlight := 5 } (fun t => (t.backlight, t.trace))
    = some (3, [.wc 0xB0, .wc 0x90, .wc 0xD0, .wc 0x90, .wc 0xD0, .wc 0x90, .wc 0xB0]) := by decide
theorem test_setBlink : see (.setBlink true) (ready [0]) (fun t => (t.cs.displayCtrl, t.trace.contains (.wd 0x0D)))
    = some (0x05, true) := by decide
theorem test_setCursorVisible : see (.setCursorVisible true) { ready [0] with cs := { (ready []).cs with displayCtrl := 0x05 } }
    (fun t => (t.cs.displayCtrl, t.trace.contains (.wd 0x0F))) = some (0x07, true) := by decide
theorem test_setDisplayVisible : see (.setDisplayVisible false) { ready [0] with cs := { (ready []).cs with displayCtrl := 0x07 } }
    (fun t => (t.cs.displayCtrl, t.trace.contains (.wd 0x0B))) = some (0x03, true) := by decide
theorem test_readRow_range : see (.readRow 2) (ready []) (fun t => (t.response, t.trace))
    = some (some { status := .rangeError, data := [] }, []) := by decide
theorem test_readRow : see (.readRow 1)
    { ready [0, 0, 1, 2, 3, 4, 5, 6, 7, 8, 0] with geom := geometryOf Config.defaults 16 1 }
      (fun t => (t.response, t.trace.contains (.wd 0xC0), t.trace.length))
        = some (some { status := .ok, data := [1, 2, 3, 4, 5, 6, 7, 8] }, true, 58) := by decide
theorem test_contrastInc : see .contrastInc { ready [] with contrast := 10 } (fun t => (t.contrast, t.trace))
    = some (11, [.wc 0xF0, .wc 0xE0, .wc 0xF0]) := by decide
theorem test_contrastInc_top : see .contrastInc { ready [] with contrast := 63 } (fun t => t.contrast) = some 63 := by decide
theorem test_contrastDec : see .contrastDec { ready [] with contrast := 1 } (fun t => (t.contrast, t.trace))
    = some (0, [.wc 0xB0, .wc 0xA0, .wc 0xB0]) := by decide
theorem test_backlightInc : see .backlightInc (ready []) (fun t => (t.backlight, t.trace))
    = some (1, [.wc 0xF0, .wc 0xD0, .wc 0xF0]) := by decide
theorem test_backlightDec : see .backlightDec (ready []) (fun t => (t.backlight, t.trace))
    = some (0, [.wc 0xB0, .wc 0x90, .wc 0xB0]) := by decide
theorem test_not_ready : see .clear State.reset (fun t => (t.response, t.trace))
    = some (some { status := .protocolPrecondition, data := [] }, []) := by decide
theorem test_faulted_first : see .clear { State.reset with faulted := true, closed := true } (fun t => t.response)
    = some (some { status := .busFault, data := [] }) := by decide
theorem test_fault : see .contrastInc { ready [] with faultIn := some 1 } (fun t => (t.faulted, t.contrast, t.shadow, t.trace))
    = some (true, 0, 0xE0, [.wc 0xF0, .fails (.wc 0xE0)]) := by decide

/-- The state `s0` of 40_bus_primitives.md's examples in TimedDelay mode. -/
def timed (vs : List Byte) : State := { ready vs with waitMode := .timedDelay, ctrl := .uninitialized }

theorem test_hdFunctionSet : see (.hdFunctionSet true true false) (timed []) (fun t => (t.trace, t.cs.functionSet))
    = some ([.wc 0xB0, .wc 0xB4, .wd 0x38, .wc 0xB0], 0x18) := by decide
theorem test_hdClear : see .hdClear (timed []) (fun t => t.trace) = some [.wc 0xB0, .wc 0xB4, .wd 0x01, .wc 0xB0] := by decide
theorem test_hdHome : see .hdHome (timed []) (fun t => t.trace) = some [.wc 0xB0, .wc 0xB4, .wd 0x02, .wc 0xB0] := by decide
theorem test_hdEntryMode : see (.hdEntryMode true false) (timed []) (fun t => (t.trace.contains (.wd 0x06), t.cs.entryMode))
    = some (true, 0x02) := by decide
theorem test_hdDisplayCtrl : see (.hdDisplayCtrl true false false) (timed []) (fun t => (t.trace.contains (.wd 0x0C), t.cs.displayCtrl))
    = some (true, 0x04) := by decide
theorem test_hdShift : see (.hdShift true false) (timed []) (fun t => (t.trace.contains (.wd 0x18), t.cs.shift))
    = some (true, 0x08) := by decide
theorem test_hdSetCgramAddress : see (.hdSetCgramAddress 0x38) (timed []) (fun t => (t.trace.contains (.wd 0x78), t.cs.setCgramAddress))
    = some (true, 0x38) := by decide
theorem test_hdSetDdramAddress : see (.hdSetDdramAddress 0x43) (timed []) (fun t => (t.trace.contains (.wd 0xC3), t.cs.setDdramAddress))
    = some (true, 0x43) := by decide
theorem test_busInstructionWrite : see (.busInstructionWrite 0x38) (timed []) (fun t => t.trace)
    = some [.wc 0xB0, .wc 0xB4, .wd 0x38, .wc 0xB0] := by decide
theorem test_busBusyRead : see .busBusyRead (ready [0x05]) (fun t => (t.trace, t.response))
    = some ([.wc 0xB0, .wc 0xB2, .dir .data 0xFF, .wc 0xB6, .rd 0x05, .wc 0xB2, .dir .data 0x00],
        some { status := .ok, data := [0x05] }) := by decide
/-- 70_reset_and_hazards.md R310: no busy-flag read before initialisation. -/
theorem test_busBusyRead_early : see .busBusyRead State.reset (fun t => (t.trace, t.response))
    = some ([], some { status := .protocolPrecondition, data := [] }) := by decide
theorem test_busDataWrite : see (.busDataWrite 0x41) (timed []) (fun t => t.trace)
    = some [.wc 0xB0, .wc 0xB1, .wc 0xB5, .wd 0x41, .wc 0xB1, .wc 0xB0] := by decide
theorem test_busDataRead : see .busDataRead (timed [0x41]) (fun t => (t.trace, t.response))
    = some ([.wc 0xB1, .wc 0xB3, .dir .data 0xFF, .wc 0xB7, .rd 0x41, .wc 0xB3, .dir .data 0x00, .wc 0xB0],
        some { status := .ok, data := [0x41] }) := by decide

/-- A table word placed for the first step after reset runs: POWER_ON's word, then its response. -/
theorem test_first_step : step (State.reset.withFetchWord 32 1) = exec .powerOn State.reset := by rfl

/-- 42_text_and_memory.md R211: a word that fits a row but not the room left is moved whole; one longer than a row is cut. -/
theorem test_wrap_moves : wrap [0x41, 0x20, 0x42, 0x42, 0x42] 3 4 = [[0x41], [0x42, 0x42, 0x42]] := by decide
theorem test_wrap_cuts : wrap [1, 2, 3, 4, 5] 2 4 = [[1, 2], [3, 4, 5]] := by decide
theorem test_splitLines : splitLines [0x41, 0x0A, 0x0A] = [[0x41], [], []] := by decide

/-! ## Witnesses: the hypotheses of each statement can be met -/

/-- The geometry (16,2) with the default table. -/
def g162 : Geometry := { declCols := 16, declRows := 2, cols := 16, rows := 2, base := [0x00, 0x40] }

/-- One answer with BF clear, and one after a set BF. -/
def clearAt : Answers := { busy := [], clear := 0x00 }
def setOnce : Answers := { busy := [0x80], clear := 0x05 }

theorem ready_readyIdle (vs : List Byte) : ReadyIdle (ready vs) g162 :=
  ⟨⟨⟨rfl, rfl, rfl⟩, rfl⟩, rfl, rfl, (by decide : 0xB0#8 &&& lineMask Config.defaultSig = 0x00#8), rfl⟩

theorem ready_noFault (vs : List Byte) (tr : List Event) : NoFault (ready vs) tr := fun _ h => by cases h

theorem lawful_ready (vs : List Byte) : setOnce.Lawful (ready vs).cfg ∧ clearAt.Lawful (ready vs).cfg := by
  have hc : busyFlag Config.defaults 0x05 = false ∧ busyFlag Config.defaults 0x00 = false := by decide
  refine ⟨⟨?_, hc.1, fun _ h => by cases h⟩, ⟨?_, hc.2, fun _ h => by cases h⟩⟩
  · intro b hb
    simp only [setOnce, List.mem_singleton] at hb
    subst hb
    exact (by decide : busyFlag Config.defaults 0x80 = true)
  · intro b hb
    cases hb

theorem g162_wf : g162.wf := ⟨by decide, by decide, by decide⟩

theorem reset_inv_terms : State.reset.cfg.sig.wf = true ∧ 0 < g162.cols ∧ 0 < g162.rows := by decide

/-- The invariant of a Ready block between requests. -/
theorem ready_inv (vs : List Byte) : Inv (ready vs) where
  port := fun c h => by cases h
  sig := (ready_readyIdle vs).sig
  positions := fun g h => by cases h; decide
  cursor := fun g h => by cases h; exact (by decide : 0 < 16 ∧ 0 < 2)
  wipers := (by decide : State.reset.contrast ≤ 63 ∧ State.reset.backlight ≤ 63)
  mode := ⟨fun _ => rfl, fun _ => rfl⟩
  settled := fun _ h => by cases h
  idle := fun _ _ _ => (ready_readyIdle vs).lines
  data := fun _ _ _ => rfl
  selects := fun _ _ => (by decide : 0xB0#8 &&& Config.defaultSig.ccs = Config.defaultSig.ccs ∧
    0xB0#8 &&& Config.defaultSig.bcs = Config.defaultSig.bcs)
  power := fun _ => rfl
  shift := rfl
  held := fun h => absurd rfl h

/-- A Ready block whose CLEAR is held in its poll. -/
def held (vs : List Byte) : State :=
  { ready vs with
    shadow := 0xB2
    seq := .poll 1 :: (instructionCycle Config.defaultSig 0x01 ++ [.record .clear 0x00, .cursor 0 0, .respond]) }

theorem held_inv (vs : List Byte) : Inv (held vs) where
  port := fun c h => by cases h
  sig := (ready_readyIdle vs).sig
  positions := fun g h => by cases h; decide
  cursor := fun g h => by cases h; exact (by decide : 0 < 16 ∧ 0 < 2)
  wipers := (by decide : State.reset.contrast ≤ 63 ∧ State.reset.backlight ≤ 63)
  mode := ⟨fun _ => rfl, fun _ => rfl⟩
  settled := fun _ h => by cases h
  idle := fun _ h => by cases h
  data := fun _ h => by cases h
  selects := fun _ _ => (by decide : 0xB2#8 &&& Config.defaultSig.ccs = Config.defaultSig.ccs ∧
    0xB2#8 &&& Config.defaultSig.bcs = Config.defaultSig.bcs)
  power := fun _ => rfl
  shift := rfl
  held := fun _ => by
    refine ⟨rfl, rfl, rfl, (by decide : settles Config.defaultSig false false (held []).seq = true), g162, rfl, ?_⟩
    intro m hm
    simp only [held, instructionCycle, List.cons_append, List.nil_append, List.mem_cons, List.not_mem_nil, or_false] at hm
    have hk : (held vs).cfg.sig = Config.defaultSig := rfl
    rcases hm with rfl | rfl | rfl | rfl | rfl | rfl | rfl | rfl <;> simp [Micro.mayBeHeld, g162, hk]
      <;> decide

theorem witness_EncodeDecode :
    Config.defaultSig.wf = true ∧ Instr.wf (.defineGlyph 7 [1, 2, 3, 4, 5, 6, 7, 8]) = true := by decide

/-- Each clause of DecodeRequest at boundary values: RSV 0x01 and 0xFF; OP 0x00, 0x0F, 0x14, 0xFF; a payload of one byte on
0x01 and 0x13; bitmaps of 7 and 9 bytes. The accepted codes are the decode tests above. -/
theorem witness_DecodeRequest :
    (0x01#8 ≠ 0x00#8 ∧ 0xFF#8 ≠ 0x00#8) ∧
    (0x00#8 ∉ requestOps ∧ 0x0F#8 ∉ requestOps ∧ 0x14#8 ∉ requestOps ∧ 0xFF#8 ∉ requestOps) ∧
    (0x01#8 ∈ requestOps ∧ 0x01#8 ≠ 0x06#8 ∧ 0x01#8 ≠ 0x07#8 ∧ 0x13#8 ∈ requestOps ∧ 0x13#8 ≠ 0x06#8 ∧ 0x13#8 ≠ 0x07#8 ∧
      [0x00#8] ≠ []) ∧
    ([1, 2, 3, 4, 5, 6, 7].length ≠ 8 ∧ [1, 2, 3, 4, 5, 6, 7, 8, 9].length ≠ 8 ∧ [1, 2, 3, 4, 5, 6, 7, 8].length = 8) := by
  decide

/-- An idle state with one coded form waiting. -/
def waiting (c : Code) : State := { ready [0x00] with queue := [c] }

theorem witness_StepRunsDecoded :
    (waiting (.request 0x03 [])).seq = [] ∧ (waiting (.request 0x03 [])).queue = .request 0x03 [] :: [] ∧
      decode (waiting (.request 0x03 [])).cfg.sig (.request 0x03 []) = .ok .clear ∧ Instr.clear.wf = true :=
  ⟨rfl, rfl, rfl, rfl⟩

theorem witness_StepIdle : State.reset.seq = [] ∧ State.reset.queue = [] := ⟨rfl, rfl⟩

theorem witness_HandleOrder :
    (∃ t, exec .clear State.reset = .next t ∧ t.response = some { status := .protocolPrecondition, data := [] }) ∧
    (waiting (.request 0x03 [])).seq = [] ∧ (waiting (.request 0x03 [])).queue = .request 0x03 [] :: [] :=
  ⟨⟨_, rfl, rfl⟩, rfl, rfl⟩

theorem witness_IllegalRequest :
    (waiting (.request 0x0F [])).seq = [] ∧ (waiting (.request 0x0F [])).queue = .request 0x0F [] :: [] ∧
      decode (waiting (.request 0x0F [])).cfg.sig (.request 0x0F []) = .error .unknownOp := ⟨rfl, rfl, rfl⟩

/-- The states of the four clauses: ConfigError, faulted, closed, Uninitialized. -/
theorem witness_RefusedStates :
    ({ State.reset with geom := none }.geom = none) ∧
    ({ State.reset with faulted := true }.geom ≠ none ∧ { State.reset with faulted := true }.faulted = true) ∧
    ({ State.reset with closed := true }.geom ≠ none ∧ { State.reset with closed := true }.faulted = false ∧
      { State.reset with closed := true }.closed = true) ∧
    (State.reset.geom ≠ none ∧ State.reset.faulted = false ∧ State.reset.closed = false ∧ Instr.clear.isRequest = true ∧
      Instr.clear.lifecycle = false ∧ State.reset.ctrl ≠ .ready) := by decide

/-- Row 2 on (16,2), glyph 8, and an instruction that answers RangeError. -/
theorem witness_RangeErrors :
    Ready (ready []) g162 ∧ g162.rows ≤ (0x02#8).toNat ∧ 7 < (0x08#8).toNat ∧
      ∃ t, exec (.readRow 2) (ready []) = .next t ∧ ∃ d, t.response = some { status := .rangeError, data := d } :=
  ⟨(ready_readyIdle []).toReady, by decide, by decide, _, rfl, [], rfl⟩

theorem witness_ResponseLaw :
    (∃ t, exec .clear State.reset = .next t ∧ t.response = some { status := .protocolPrecondition, data := [] }) ∧
    (∃ t, exec .powerOff State.reset = .next t ∧ t.response = some { status := .ok, data := [] }) ∧
    (∃ t, exec .clear { State.reset with geom := none } = .next t ∧
      t.response = some { status := .configurationError, data := [] }) ∧
    Instr.powerOff.lifecycle = true ∧ State.reset.closed = false :=
  ⟨⟨_, rfl, rfl⟩, ⟨_, rfl, rfl⟩, ⟨_, rfl, rfl⟩, rfl, rfl⟩

/-- Idle, and held. -/
theorem witness_StepKeepsInv :
    (∃ t, Inv (ready []) ∧ step (ready []) = .next t) ∧ ∃ t, Inv (held [0x00]) ∧ step (held [0x00]) = .next t :=
  ⟨⟨_, ready_inv [], rfl⟩, ⟨_, held_inv [0x00], rfl⟩⟩

theorem witness_ConstructInv : Config.defaults.sig.wf = true := by decide

/-- 30_encoding.md R110: the six status codes. -/
theorem test_statusCode : [Status.ok, .configurationError, .rangeError, .busFault, .protocolPrecondition, .illegalRequest].map
    statusCode = [0x00, 0x01, 0x02, 0x03, 0x04, 0x05] := by decide

theorem witness_IrsNeverChanges :
    (ready []).cfg.sig.wf = true ∧ (∃ t, exec .contrastInc (ready []) = .next t) ∧
      ∃ t, Inv (held [0x00]) ∧ step (held [0x00]) = .next t :=
  ⟨by decide, ⟨_, rfl⟩, ⟨_, held_inv [0x00], rfl⟩⟩

theorem witness_StickyState :
    ∃ t, step { State.reset with closed := true, faulted := true } = .next t := ⟨_, rfl⟩

/-- Statements whose hypotheses are that an instruction answers a next state. -/
theorem witness_exec :
    (∃ t, exec .clear (ready [0x00]) = .next t) ∧ (∃ t, exec .powerOn State.reset = .next t) ∧ (ready []).cfg.sig.wf = true ∧
      ∃ t, exec .close (ready []) = .next t := ⟨⟨_, rfl⟩, ⟨_, rfl⟩, by decide, ⟨_, rfl⟩⟩

theorem witness_NoPollBeforeReady :
    Instr.powerOn.lifecycle = true ∧ (State.reset.ctrl ≠ .ready ∧ Instr.clear.isRequest = true) ∧
      (State.reset.waitMode = .timedDelay ∧ Instr.hdClear.lcdOperands ≠ none) := by decide

theorem witness_BusDiscipline :
    (ready []).cfg.sig.wf = true ∧ (ready []).shadow &&& lineMask (ready []).cfg.sig = 0x00#8 ∧ (ready []).dirData = 0x00#8 := by
  decide

/-- Both selects idle; POWER_ON from position 0 with both selects low, and from another with the backlight's idle; held. -/
theorem witness_OneSelectAtATime :
    signalHigh (ready []).cfg.sig.ccs (ready []).shadow = true ∧ signalHigh (ready []).cfg.sig.bcs (ready []).shadow = true ∧
    (State.reset.cfg.sig.wf = true ∧ State.reset.contrast = 0 ∧ ∃ t, exec .powerOn State.reset = .next t) ∧
    ({ State.reset with contrast := 5, shadow := 0x20 }.contrast ≠ 0 ∧
      signalHigh { State.reset with contrast := 5, shadow := 0x20 }.cfg.sig.bcs 0x20 = true) ∧
    Inv (held [0x00]) ∧ (held [0x00]).seq ≠ [] ∧ ∃ t, step (held [0x00]) = .next t :=
  ⟨by decide, by decide, ⟨by decide, rfl, _, rfl⟩, by decide, held_inv _, by simp [held], _, rfl⟩

theorem witness_CopiesAreLastWrites : (held [0x00]).seq ≠ [] ∧ ∃ t, step (held [0x00]) = .next t := ⟨by simp [held], _, rfl⟩

/-- A slot, a position and a mode that the instruction may not write. -/
theorem witness_Frames :
    LcdOp.home ∉ Instr.clear.slots ∧ Instr.contrastInc.movesCursor = false ∧ Instr.clear.lifecycle = false ∧
      Instr.clear ≠ .close ∧ Pot.backlight ∉ wipers .contrastInc ∧ keepsDataPort .powerOff = true := by decide

theorem witness_FaultEnds :
    ∃ t, exec .clear { ready [] with faultIn := some 0 } = .next t ∧ { ready [] with faultIn := some 0 }.faulted = false ∧
      t.faulted = true := ⟨_, rfl, rfl, rfl⟩

/-- A held request whose next transaction fails. -/
theorem witness_FaultEnds_held :
    { held [0x00] with faultIn := some 0 }.seq ≠ [] ∧ { held [0x00] with faultIn := some 0 }.faulted = false ∧
      ∃ t, step { held [0x00] with faultIn := some 0 } = .next t ∧ t.faulted = true := ⟨by simp [held], rfl, _, rfl, rfl⟩

/-- A wiper request; PRINT of two lines, the second address's transfer failing; POWER_ON in its fifth command. -/
theorem witness_FaultKeeps :
    (∃ t, exec .contrastInc { ready [] with faultIn := some 2 } = .next t ∧ t.faulted = true) ∧
    (∃ t, exec (.print [0x0A]) { ready [0x00, 0x00] with faultIn := some 18 } = .next t ∧ t.faulted = true ∧
      commandsDone 0x01 0xB0 t.trace = 1 ∧ t.cs.setDdramAddress = 0x00) ∧
    (∃ t, exec .powerOn { State.reset with faultIn := some 26 } = .next t ∧ t.faulted = true ∧
      commandsDone 0x01 0x00 t.trace = 4 ∧ t.cs.functionSet = 0x18 ∧ t.cs.entryMode = 0x00) ∧
    (ready []).geom = some g162 ∧ (ready []).cfg.sig.wf = true ∧ Instr.hdClear.lcdOperands ≠ none :=
  ⟨⟨_, rfl, rfl⟩, ⟨_, rfl, rfl, by decide, rfl⟩, ⟨_, rfl, rfl, by decide, rfl, rfl⟩, rfl, by decide, by decide⟩

/-- A fault on the first transaction, on the last before initialisation, and on the first inside it. -/
theorem witness_FaultInPowerOn :
    Admits State.reset g162 ∧
    (∃ t, exec .powerOn { State.reset with faultIn := some 0 } = .next t ∧ t.faulted = true ∧ t.trace.length ≤ 7) ∧
    (∃ t, exec .powerOn { State.reset with faultIn := some 6 } = .next t ∧ t.faulted = true ∧ t.trace.length ≤ 7) ∧
    (∃ t, exec .powerOn { State.reset with faultIn := some 7 } = .next t ∧ t.faulted = true ∧ 7 < t.trace.length) :=
  ⟨⟨rfl, rfl, rfl⟩, ⟨_, rfl, rfl, by decide⟩, ⟨_, rfl, rfl, by decide⟩, ⟨_, rfl, rfl, by decide⟩⟩

/-- A block with a deadline of one iteration, and one with BF set listed. -/
def deadlined (vs : List Byte) : State := { ready vs with cfg := { Config.defaults with pollDeadline := some 1 } }

theorem witness_PollDeadline :
    ReadyIdle (deadlined [0x80]) g162 ∧ (deadlined [0x80]).cfg.pollDeadline = some [0x80#8].length ∧
      (∀ b ∈ [0x80#8], busyFlag (deadlined [0x80]).cfg b = true) ∧ (deadlined [0x80]).inputs = [0x80#8] ++ [] ∧
      NoFault (deadlined [0x80]) (pollsTrace Config.defaultSig 0xB0 [0x80]) := by
  refine ⟨⟨⟨⟨rfl, rfl, rfl⟩, rfl⟩, rfl, by decide, by decide, rfl⟩, rfl, ?_, rfl, fun _ h => by cases h⟩
  decide

theorem witness_PollDeadline_iteration :
    (deadlined [0x80]).cfg.pollDeadline = some 1 ∧ (∃ v s', pollOnce (deadlined [0x80]) = .ok (v, s') ∧
      busyFlag (deadlined [0x80]).cfg v = true) ∧ 1 ≤ 0 + 1 := ⟨rfl, ⟨0x80, _, rfl, by decide⟩, by decide⟩

/-- One listed answer with BF set, without a deadline and with one of three iterations. -/
theorem witness_PollHolds :
    ReadyIdle (ready [0x80]) g162 ∧ (ready [0x80]).cfg.pollDeadline = none ∧
      { Config.defaults with pollDeadline := some 3 }.pollDeadline = some 3 ∧ [0x80#8].length + 1 < 3 ∧
      (∀ b ∈ [0x80#8], busyFlag (ready [0x80]).cfg b = true) ∧ (ready [0x80]).inputs = [0x80] ∧
      (∀ tr, NoFault (ready [0x80]) tr) ∧ Instr.pollsFirst .clear g162.rows ∧ Instr.pollsFirst (.readRow 1) g162.rows ∧
      Instr.pollsFirst (.defineGlyph 7 []) g162.rows :=
  ⟨ready_readyIdle _, rfl, rfl, by decide, by decide, rfl, ready_noFault _, by simp [Instr.pollsFirst],
    by simp [Instr.pollsFirst, g162], by simp [Instr.pollsFirst]⟩

/-- A poll that goes on to a clear BF, and one whose listed answers all have BF set. -/
theorem witness_HeldPollGoesOn :
    (∃ ms, (held [0x80, 0x05]).seq = .poll 1 :: ms) ∧ (held [0x80, 0x05]).cfg.sig.wf = true ∧
      0xB0#8 &&& lineMask (held [0x80, 0x05]).cfg.sig = 0x00#8 ∧
      (held [0x80, 0x05]).shadow = 0xB0#8 ||| (held [0x80, 0x05]).cfg.sig.rw ∧ (held [0x80, 0x05]).cfg.pollDeadline = none ∧
      (∀ b ∈ [0x80#8], busyFlag (held [0x80, 0x05]).cfg b = true) ∧ busyFlag (held [0x80, 0x05]).cfg 0x05 = false ∧
      (held [0x80, 0x05]).inputs = [0x80] ++ [0x05] ++ [] ∧ (held [0x80]).inputs = [0x80] ∧
      ∀ vs tr, NoFault (held vs) tr :=
  ⟨⟨_, rfl⟩, by decide, by decide, by decide, rfl, by decide, by decide, rfl, rfl, fun _ _ _ h => (by cases h)⟩

theorem witness_SetSignal :
    0xFF#8 = 0xFF#8 ∧ (ready []).faultIn = none ∧ { ready [] with faultIn := some 1 }.faultIn = some (0 + 1) ∧
      { ready [] with faultIn := some 0 }.faultIn = some 0 := ⟨rfl, rfl, rfl, rfl⟩

/-- Also of WriteByte: a lawful wiring, idle lines and a poll's answers. -/
theorem witness_WaitReady :
    (timed []).waitMode = .timedDelay ∧ (ready (setOnce.bytes ++ [])).waitMode = .busyPoll ∧
      (ready (setOnce.bytes ++ [])).cfg.sig.wf = true ∧
      (ready (setOnce.bytes ++ [])).shadow &&& lineMask (ready (setOnce.bytes ++ [])).cfg.sig = 0x00#8 ∧
      setOnce.Lawful (ready (setOnce.bytes ++ [])).cfg ∧ (ready (setOnce.bytes ++ [])).inputs = setOnce.bytes ++ [] ∧
      (∀ tr, NoFault (ready (setOnce.bytes ++ [])) tr) ∧ ∀ tr, NoFault (timed (setOnce.bytes ++ [])) tr :=
  ⟨rfl, rfl, by decide, by decide, (lawful_ready _).1, rfl, ready_noFault _, fun _ _ h => by cases h⟩

theorem witness_FunctionSetValue :
    (∃ g, geometryOf Config.defaults 16 1 = some g ∧ g.declRows = 1) ∧
      (∃ g, geometryOf Config.defaults 16 2 = some g ∧ g.declRows ≠ 1) ∧ Config.defaults.oneLineN = false ∧
      { Config.defaults with oneLineN := true }.oneLineN = true :=
  ⟨⟨_, rfl, rfl⟩, ⟨_, rfl, by decide⟩, rfl, rfl⟩

theorem witness_Geometries :
    (∃ g, (construct Config.defaults 16 1 none).geom = some g) ∧ (∃ g, (construct Config.defaults 40 4 (some 0x00)).geom = some g) ∧
      (construct Config.defaults 16 3 none).geom = none := ⟨⟨_, rfl⟩, ⟨_, rfl⟩, rfl⟩

theorem witness_DdramAddress :
    Config.defaults.wf = true ∧ geometryOf Config.defaults 16 2 = some g162 ∧ 15 < g162.cols ∧ 1 < g162.rows := by decide

theorem witness_Construct :
    geometryOf Config.defaults 16 2 = some g162 ∧ geometryOf Config.defaults 3 3 = none := by decide

/-- Room 1 of width 1, and a text line with no word. -/
theorem witness_WrapSpans : 1 ≤ 1 ∧ splitWords [0x20, 0x20] = [] ∧ splitWords [0x41] ≠ [] ∧ [0x41#8].length ≤ 1 := by decide

/-- A first word of each kind: over the room, over the row, fitting. -/
theorem witness_WrapGreedy :
    (1 ≤ 1 ∧ 1 ≤ 2 ∧ 1 < [0x41#8, 0x42].length ∧ [0x41#8, 0x42].length ≤ 2) ∧ 2 < [0x41#8, 0x42, 0x43].length ∧
      [0x41#8].length ≤ 1 ∧ (∀ x ∈ [[0x41#8, 0x42], [0x43#8]], x ≠ [] ∧ 0x20#8 ∉ x) ∧ splitWords [0x20] = [] := by decide

/-- A line that wraps from the last row, and a second line. -/
theorem witness_PrintRows : 15 < g162.cols ∧ 1 < g162.rows ∧ 0x0A#8 ∉ [0x41#8, 0x20, 0x42] := by decide

/-- The last position of (16,2). -/
theorem witness_PrintLandsOnDisplay : 15 < g162.cols ∧ 1 < g162.rows := by decide

/-- One poll's answers: CLEAR, HOME, SET_CURSOR, the toggles and the polled HD44780 instructions. -/
theorem witness_command :
    ReadyIdle (ready (setOnce.bytes ++ [])) g162 ∧ g162.wf ∧ setOnce.Lawful (ready (setOnce.bytes ++ [])).cfg ∧
      (ready (setOnce.bytes ++ [])).inputs = setOnce.bytes ++ [] ∧ ∀ tr, NoFault (ready (setOnce.bytes ++ [])) tr :=
  ⟨ready_readyIdle _, g162_wf, (lawful_ready _).1, rfl, ready_noFault _⟩

theorem witness_SetCursorWraps :
    (ready []).geom = some g162 ∧ (0x13#8).toNat % g162.cols = (0x03#8).toNat % g162.cols ∧
      (0x03#8).toNat % g162.rows = (0x01#8).toNat % g162.rows := by decide

/-- PRINT "A" from (15, 1), the last position: an address, a block and an address again, so three polls. -/
theorem witness_PrintResult :
    let as := [clearAt, clearAt, clearAt]
    let s := { ready (as.flatMap Answers.bytes) with col := 15, row := 1 }
    ReadyIdle s g162 ∧ g162.wf ∧ s.col < g162.cols ∧ s.row < g162.rows ∧
      as.length = polledTransfers (layoutText g162 [0x41] s.col s.row).transfers ∧ (∀ a ∈ as, a.Lawful s.cfg) ∧
      s.inputs = as.flatMap Answers.bytes ++ [] ∧ ∀ tr, NoFault s tr := by
  refine ⟨⟨⟨⟨rfl, rfl, rfl⟩, rfl⟩, rfl, by decide, by decide, rfl⟩, g162_wf, by decide, by decide, by decide, ?_, rfl,
    fun _ _ h => by cases h⟩
  intro a ha
  have : a = clearAt := by
    simp only [List.mem_cons, List.not_mem_nil, or_false, or_self] at ha
    exact ha
  subst this
  exact (lawful_ready []).2

/-- Three polls' answers, and sixteen bytes read. -/
theorem witness_GlyphAndRow :
    let vs := List.replicate 16 0x41#8
    (7#8).toNat ≤ 7 ∧ [1#8, 2, 3, 4, 5, 6, 7, 8].length = 8 ∧ (1#8).toNat < g162.rows ∧ vs.length = g162.cols ∧
      (ready []).col < g162.cols ∧ (ready []).row < g162.rows ∧
      (ready (clearAt.bytes ++ setOnce.bytes ++ vs ++ clearAt.bytes ++ [])).inputs
        = clearAt.bytes ++ setOnce.bytes ++ vs ++ clearAt.bytes ++ [] ∧
      (ready (clearAt.bytes ++ setOnce.bytes ++ clearAt.bytes ++ [])).inputs
        = clearAt.bytes ++ setOnce.bytes ++ clearAt.bytes ++ [] ∧
      (∀ ws, clearAt.Lawful (ready ws).cfg ∧ setOnce.Lawful (ready ws).cfg) ∧ (∀ ws, ReadyIdle (ready ws) g162) ∧
      ∀ ws tr, NoFault (ready ws) tr :=
  ⟨by decide, by decide, by decide, by decide, by decide, by decide, rfl, rfl,
    fun ws => ⟨(lawful_ready ws).2, (lawful_ready ws).1⟩, ready_readyIdle, ready_noFault⟩

/-- The potentiometer requests: Ready, no fault; with a level above 63 too. -/
theorem witness_Wipers :
    Ready (ready []) g162 ∧ (ready []).cfg.sig.wf = true ∧ 63 < (200#8).toNat ∧ ∀ tr, NoFault (ready []) tr :=
  ⟨(ready_readyIdle []).toReady, by decide, by decide, ready_noFault []⟩

/-- POWER_ON, POWER_OFF and CLOSE, and the unpolled HD44780 instructions and bus cycles. -/
theorem witness_Power :
    Admits State.reset g162 ∧ State.reset.cfg.sig.wf = true ∧ (∀ tr, NoFault State.reset tr) ∧
      Instr.lcdOperands (.hdShift true false) = some (.shift, 0x08) ∧
      encode State.reset.cfg.sig (.hdShift true false) = .lcd 0x18 ∧ State.reset.waitMode = .timedDelay :=
  ⟨⟨rfl, rfl, rfl⟩, by decide, fun _ _ h => (by cases h), by decide, by decide, rfl⟩

theorem witness_BusCycle :
    Admits (timed [0x41]) g162 ∧ Ready (ready [0x41]) g162 ∧ (timed [0x41]).cfg.sig.wf = true ∧
      (timed [0x41]).shadow &&& lineMask (timed [0x41]).cfg.sig = 0x00#8 ∧ (timed [0x41]).inputs = 0x41 :: [] ∧
      ∀ tr, NoFault (timed [0x41]) tr :=
  ⟨⟨rfl, rfl, rfl⟩, (ready_readyIdle _).toReady, by decide, by decide, rfl, fun _ _ h => by cases h⟩

theorem witness_EventCounts :
    ∃ t, exec .powerOff State.reset = .next t ∧ t.response.map Response.status = some .ok := ⟨_, rfl, rfl⟩
end

section
/-! SUPPORT. What is known of a block in the middle of a request: `Core`, the part of the invariant that no step may break even
for an instant, because a bus fault ends the request there; `Known`, with the pin levels known so far; and `Leads`, the rule
by which one part of the pseudocode is followed by the next. -/

namespace Sys2Proof.Machine

/-! ## Pin levels -/

/-- Setting or clearing bits outside `k` keeps the bits of `k`. -/
theorem maskBits_and_of_disjoint {m k : Byte} (on : Bool) (v : Byte) (h : m &&& k = 0x00#8) :
    maskBits m on v &&& k = v &&& k := by
  cases on
  · rw [maskBits_false, BitVec.and_assoc, BitVec.and_comm (~~~m), clear_of_disjoint (by rw [BitVec.and_comm]; exact h)]
  · rw [maskBits_true, BitVec.and_comm, BitVec.and_or_distrib_left, BitVec.and_comm k m, h, BitVec.or_zero, BitVec.and_comm]

/-- Every bit just set is 1. -/
theorem maskBits_true_and_self (m v : Byte) : maskBits m true v &&& m = m := by
  ext i hi
  cases hm : m[i] <;> simp [maskBits_true, hm]

/-- Clearing a mask that covers `k` leaves no bit of `k`. -/
theorem maskBits_false_and_of_covers {m k : Byte} (v : Byte) (h : k &&& ~~~m = 0x00#8) : maskBits m false v &&& k = 0x00#8 := by
  rw [maskBits_false, BitVec.and_assoc, BitVec.and_comm (~~~m), h, BitVec.and_zero]

/-- Clearing bits leaves low what was low. -/
theorem maskBits_false_and_of_low {m k v : Byte} (h : v &&& k = 0x00#8) : maskBits m false v &&& k = 0x00#8 := by
  rw [maskBits_false, BitVec.and_assoc, BitVec.and_comm (~~~m), ← BitVec.and_assoc, h, BitVec.zero_and]

/-- The bits of a union are at 1 exactly when those of both parts are. -/
theorem and_or_eq_self {v a b : Byte} : v &&& (a ||| b) = a ||| b ↔ v &&& a = a ∧ v &&& b = b := by
  constructor
  · intro h
    constructor <;>
    · ext i hi
      have hbit := congrArg (fun x : Byte => x[i]) h
      simp only [BitVec.getElem_and, BitVec.getElem_or] at hbit ⊢
      cases hv : v[i] <;> simp_all
  · rintro ⟨ha, hb⟩
    rw [BitVec.and_or_distrib_left, ha, hb]

/-! ## The core of the invariant -/

/-- The fields no transaction, cursor move, wiper or slot changes. -/
structure Phase where
  sig : SigMap
  geom : Option Geometry
  mode : WaitMode
  ctrl : Ctrl
  powered : Bool
  closed : Bool
  faulted : Bool

/-- The phase a state is in. -/
def State.phase (s : State) : Phase := ⟨s.cfg.sig, s.geom, s.waitMode, s.ctrl, s.powered, s.closed, s.faulted⟩

/-- What of `Inv` is said of one phase alone: lawful wiring, a position in every geometry, R40 (c) and (g). -/
structure Phase.Lawful (ph : Phase) : Prop where
  sig : ph.sig.wf = true
  positions : ∀ g, ph.geom = some g → 0 < g.cols ∧ 0 < g.rows
  mode : ph.mode = .busyPoll ↔ ph.ctrl = .ready
  power : ph.ctrl = .ready → ph.powered = true

/-- The clauses of `Inv` that hold of a faulted block too, hence before and after every transaction of a request. -/
structure Core (s : State) : Prop where
  port : ∀ c ∈ s.queue, c.isRequest = true
  phase : s.phase.Lawful
  cursor : ∀ g, s.geom = some g → s.col < g.cols ∧ s.row < g.rows
  wipers : s.contrast ≤ 63 ∧ s.backlight ≤ 63
  shift : s.cs.shift = 0x00#8

theorem Inv.core {s : State} (h : Inv s) : Core s where
  port := h.port
  phase := ⟨h.sig, h.positions, h.mode, h.power⟩
  cursor := h.cursor
  wipers := h.wipers
  shift := h.shift

/-- A bus fault ends a request in a state in which the invariant holds (60_exceptions.md R274). -/
theorem Core.inv_onBusFault {s : State} (h : Core s) : Inv (onBusFault s) where
  port := h.port
  sig := h.phase.sig
  positions := h.phase.positions
  cursor := h.cursor
  wipers := h.wipers
  mode := h.phase.mode
  settled := fun hf => by cases hf
  idle := fun hf => by cases hf
  data := fun hf => by cases hf
  selects := fun hf => by cases hf
  power := h.phase.power
  shift := h.shift
  held := fun hs => absurd rfl hs

/-! ## What is known in the middle of a request -/

/-- A request in progress in the phase `ph`: the bits of `hi` are known to be 1 in the control byte, those of `lo` 0, and the
data port's direction is `d` if `d` is known. -/
structure Known (ph : Phase) (hi lo : Byte) (d : Option Byte) (s : State) : Prop where
  core : Core s
  phase : s.phase = ph
  seq : s.seq = []
  high : s.shadow &&& hi = hi
  low : s.shadow &&& lo = 0x00#8
  data : ∀ b ∈ d, s.dirData = b

section
variable {ph : Phase} {hi lo : Byte} {d : Option Byte} {s : State}

/-- `P` holds of what a step answers; if it faults, the invariant holds of the faulted block. -/
def Yields {α : Type} (P : α → Prop) : Except State α → Prop
  | .error t => Core t
  | .ok a => P a

theorem Yields.mono {α : Type} {P Q : α → Prop} {r : Except State α} (h : Yields P r) (hPQ : ∀ a, P a → Q a) : Yields Q r := by
  cases r with
  | error t => exact h
  | ok a => exact hPQ a h

theorem Yields.bind {α β : Type} {P : α → Prop} {Q : β → Prop} {r : Except State α} {f : α → Except State β}
    (h : Yields P r) (hf : ∀ a, P a → Yields Q (f a)) : Yields Q (r >>= f) := by
  cases r with
  | error t => exact h
  | ok a => exact hf a h

/-! ### Primitives -/

/-- `Core` says nothing of the pins, the environment's answers or the response. -/
theorem Core.traffic (h : Core s) {sh dc dd : Byte} {ms : List Micro} {out ins : List Byte} {r : Option Response}
    {tr : List Event} {n : Nat} {f : Option Nat} :
    Core { s with shadow := sh, dirControl := dc, dirData := dd, seq := ms, out := out, response := r, trace := tr,
                  inputs := ins, reads := n, faultIn := f } :=
  ⟨h.port, h.phase, h.cursor, h.wipers, h.shift⟩

/-- What is known says nothing of the control port's direction, the environment's answers or the response. -/
theorem Known.traffic (h : Known ph hi lo d s) {dc : Byte} {out ins : List Byte} {r : Option Response} {tr : List Event}
    {n : Nat} {f : Option Nat} :
    Known ph hi lo d { s with dirControl := dc, out := out, response := r, trace := tr, inputs := ins, reads := n,
                              faultIn := f } :=
  ⟨h.core.traffic, h.phase, h.seq, h.high, h.low, h.data⟩

/-- A transaction changes the trace and the fault draw, and nothing else. -/
theorem transact_yields {P : State → Prop} (t : Tx) (e : Event) (hc : Core s)
    (hP : ∀ tr f, P { s with trace := tr, faultIn := f }) : Yields P (transact t e s) := by
  unfold transact
  split
  · exact hP _ _
  · exact hc.traffic
  · exact hP _ _

/-- 40_bus_primitives.md R136. -/
theorem Known.yields_setSignal {hi' lo' : Byte} (h : Known ph hi lo d s) (m : Byte) (on : Bool)
    (hhi : maskBits m on s.shadow &&& hi' = hi') (hlo : maskBits m on s.shadow &&& lo' = 0x00#8) :
    Yields (Known ph hi' lo' d) (setSignal m on s) :=
  transact_yields _ _ h.core.traffic fun _ _ => ⟨h.core.traffic, h.phase, h.seq, hhi, hlo, h.data⟩

/-- A signal of which nothing is known, or asked, may take any level. -/
theorem Known.yields_touch (h : Known ph hi lo d s) {m : Byte} (on : Bool) (hhi : m &&& hi = 0x00#8)
    (hlo : m &&& lo = 0x00#8) : Yields (Known ph hi lo d) (setSignal m on s) :=
  h.yields_setSignal m on (by rw [maskBits_and_of_disjoint on _ hhi, h.high]) (by rw [maskBits_and_of_disjoint on _ hlo, h.low])

theorem Known.yields_raise (h : Known ph hi lo d s) {m : Byte} (hhi : m &&& hi = 0x00#8) (hlo : m &&& lo = 0x00#8) :
    Yields (Known ph (hi ||| m) lo d) (setSignal m true s) :=
  h.yields_setSignal m true
    (and_or_eq_self.2 ⟨by rw [maskBits_and_of_disjoint true _ hhi, h.high], maskBits_true_and_self _ _⟩)
    (by rw [maskBits_and_of_disjoint true _ hlo, h.low])

/-- 40_bus_primitives.md R137, the control port. -/
theorem Known.yields_setDir_control (h : Known ph hi lo d s) (m : Byte) (input : Bool) :
    Yields (Known ph hi lo d) (setDir .control m input s) :=
  transact_yields _ _ h.core.traffic fun _ _ => h.traffic

/-- 40_bus_primitives.md R137, the data port. -/
theorem Known.yields_setDir_data (h : Known ph hi lo d s) (input : Bool) :
    Yields (Known ph hi lo (some (if input then 0xFF else 0x00))) (setDir .data 0xFF input s) :=
  transact_yields _ _ h.core.traffic fun _ _ =>
    ⟨h.core.traffic, h.phase, h.seq, h.high, h.low, fun b hb => by
      rw [Option.mem_def, Option.some_inj] at hb
      rw [← hb]
      exact maskBits_all _ _⟩

theorem Known.yields_dataOut (h : Known ph hi lo d s) (b : Byte) : Yields (Known ph hi lo d) (portOut .data b s) :=
  transact_yields _ _ h.core fun _ _ => h.traffic

theorem Known.yields_portIn (h : Known ph hi lo d s) : Yields (fun r => Known ph hi lo d r.2) (portIn s) := by
  have hr : Yields (Known ph hi lo d) (transact .rd (.rd (nextInput s)) s) := transact_yields _ _ h.core fun _ _ => h.traffic
  unfold portIn
  split <;> rename_i ht <;> rw [ht] at hr
  · exact hr
  · exact Known.traffic hr

/-! ### What may be forgotten -/

theorem Known.forget_low (h : Known ph hi lo d s) : Known ph hi 0x00 d s :=
  ⟨h.core, h.phase, h.seq, h.high, BitVec.and_zero, h.data⟩

theorem Known.forget_high {a b : Byte} (h : Known ph (a ||| b) lo d s) : Known ph a lo d s :=
  ⟨h.core, h.phase, h.seq, (and_or_eq_self.1 h.high).1, h.low, h.data⟩

theorem Known.forget_data (h : Known ph hi lo d s) : Known ph hi lo none s :=
  ⟨h.core, h.phase, h.seq, h.high, h.low, fun _ hb => by cases hb⟩

theorem Known.sig (h : Known ph hi lo d s) : s.cfg.sig = ph.sig := congrArg Phase.sig h.phase

/-! ### The busy poll -/

/-- One iteration leaves the data port an output, and every bit but those of RS, RW and EN as it was
(40_bus_primitives.md R139). -/
theorem Known.yields_pollOnce (h : Known ph hi lo d s) (hl : lineMask ph.sig &&& hi = 0x00#8) :
    Yields (fun r => Known ph hi 0x00 (some 0x00) r.2) (pollOnce s) := by
  rw [lineMask, or_disjoint, or_disjoint] at hl
  obtain ⟨⟨hrs, hrw⟩, hen⟩ := hl
  have line : ∀ {d : Option Byte} {t : State} {m : Byte} (on : Bool), Known ph hi 0x00 d t → m &&& hi = 0x00#8 →
      Yields (Known ph hi 0x00 d) (setSignal m on t) := fun on ht hm => ht.yields_touch on hm BitVec.and_zero
  unfold pollOnce
  refine (line false h.forget_low (by rw [h.sig]; exact hrs)).bind fun t ht => ?_
  refine (line true ht (by rw [ht.sig]; exact hrw)).bind fun t ht => ?_
  refine (ht.yields_setDir_data true).bind fun t ht => ?_
  refine (line true ht (by rw [ht.sig]; exact hen)).bind fun t ht => ?_
  refine ht.yields_portIn.bind fun r hr => ?_
  refine (line false hr (by rw [hr.sig]; exact hen)).bind fun t ht => ?_
  exact (ht.yields_setDir_data false).bind fun t ht => ht

/-- How a poll leaves the block: done, or held with an iteration still to make. -/
def PollEnds (P : State → Prop) : Done → Prop
  | .done t => P t
  | .hold m t => (∃ n, m = .poll n) ∧ P t

/-- The test after an iteration (40_bus_primitives.md R139, R146). -/
theorem Known.yields_pollTest (h : Known ph hi lo d s) {P : State → Prop} (hP : P s) (n : Nat) {again : State → Except State Done}
    (v : Byte) (hagain : Yields (PollEnds P) (again s)) : Yields (PollEnds P) (pollTest n again v s) := by
  unfold pollTest
  split
  · split
    · exact h.core.traffic
    · exact hagain
  · exact hP

/-- The whole poll (40_bus_primitives.md R139, 70_reset_and_hazards.md R314). -/
theorem Known.yields_busyPoll (fuel n : Nat) (h : Known ph hi lo d s) (hl : lineMask ph.sig &&& hi = 0x00#8) :
    Yields (PollEnds (Known ph hi 0x00 (some 0x00))) (busyPoll fuel n s) := by
  induction fuel generalizing n lo d s with
  | zero =>
    have once := h.yields_pollOnce hl
    rw [busyPoll]
    rcases hr : pollOnce s with t | ⟨v, t⟩ <;> rw [hr] at once
    · exact once
    · exact Known.yields_pollTest once once n v ⟨⟨_, rfl⟩, once⟩
  | succ fuel ih =>
    have once := h.yields_pollOnce hl
    rw [busyPoll]
    rcases hr : pollOnce s with t | ⟨v, t⟩ <;> rw [hr] at once
    · exact once
    · exact Known.yields_pollTest once once n v (ih _ once)

end

/-! ## Runs -/

/-- How a step of the pseudocode that cannot hold leaves the block. -/
def Completes (P : State → Prop) : Done → Prop
  | .done t => P t
  | .hold _ _ => False

theorem Yields.plain {P : State → Prop} {r : Except State State} (h : Yields P r) : Yields (Completes P) (plain r) := by
  cases r with
  | error t => exact h
  | ok t => exact h

/-- The invariant holds after a run if it holds wherever the first step can lead: a fault ends the run, a poll that holds
leaves the rest to a later step. -/
theorem inv_run_cons {m : Micro} {ms : List Micro} {s : State} {P : Done → Prop} (h : Yields P (perform m s))
    (hdone : ∀ t, P (.done t) → Inv (run ms t)) (hhold : ∀ m' t, P (.hold m' t) → Inv (t.setSeq (m' :: ms))) :
    Inv (run (m :: ms) s) := by
  rw [run]
  split <;> rename_i hr <;> rw [hr] at h
  · exact Core.inv_onBusFault h
  · exact hdone _ h
  · exact hhold _ _ h

/-- From every state of `P` the steps `ms` lead, unless a transaction faults, to one of `Q`: if the invariant holds however the
request goes on from there, it holds after the whole run. -/
def Leads (P : State → Prop) (ms : List Micro) (Q : State → Prop) : Prop :=
  ∀ s rest, P s → (∀ t, Q t → Inv (run rest t)) → Inv (run (ms ++ rest) s)

section
variable {P Q R : State → Prop} {a b : List Micro}

theorem Leads.nil (h : ∀ s, P s → Q s) : Leads P [] Q := fun s _ hs k => k s (h s hs)

theorem Leads.append (ha : Leads P a Q) (hb : Leads Q b R) : Leads P (a ++ b) R := fun s rest hs k => by
  rw [List.append_assoc]
  exact ha s _ hs fun t ht => hb t _ ht k

theorem Leads.cons {m : Micro} (hm : ∀ s, P s → Yields (Completes Q) (perform m s)) (hb : Leads Q b R) : Leads P (m :: b) R :=
  fun s _ hs k => inv_run_cons (hm s hs) (fun t ht => hb t _ ht k) (fun _ _ h => h.elim)

/-- The invariant holds after a request's steps if it holds where they lead. -/
theorem Leads.inv {s : State} (h : Leads P a Q) (hs : P s) (hQ : ∀ t, Q t → Inv t) : Inv (run a s) := by
  have := h s [] hs hQ
  rwa [List.append_nil] at this
end

end Sys2Proof.Machine
end

section
/-! SUPPORT. The transfers of a Ready block (40_bus_primitives.md section 4), run or held: from every step on they end at idle
levels, or are held again. -/

namespace Sys2Proof.Machine

/-! ## Ending a request -/

section
variable {ph : Phase} {hi lo : Byte} {d : Option Byte} {s : State}

/-- Between requests, the levels of R40 (e) and (f) with both potentiometers deselected give the invariant. -/
theorem Known.inv (h : Known ph (ph.sig.ccs ||| ph.sig.bcs) (lineMask ph.sig) (some 0x00) s)
    (hctrl : ph.ctrl ≠ .initializing) : Inv s where
  port := h.core.port
  sig := h.core.phase.sig
  positions := h.core.phase.positions
  cursor := h.core.cursor
  wipers := h.core.wipers
  mode := h.core.phase.mode
  settled := fun _ hc => hctrl (by rw [← hc, ← h.phase]; rfl)
  idle := fun _ _ _ => by rw [h.sig]; exact h.low
  data := fun _ _ _ => h.data _ rfl
  selects := fun _ _ => by rw [h.sig]; exact and_or_eq_self.1 h.high
  power := h.core.phase.power
  shift := h.core.shift
  held := fun hs => absurd h.seq hs

/-- `respond` changes nothing that is known. -/
theorem Known.answer (h : Known ph hi lo d s) (r : Response) : Known ph hi lo d (s.answer r) :=
  ⟨h.core.traffic, h.phase, rfl, h.high, h.low, h.data⟩

theorem Known.record (h : Known ph hi lo d s) {op : LcdOp} (hop : op ≠ .shift) (v : Byte) :
    Known ph hi lo d (s.record op v) :=
  have hshift : (s.cs.set op v).shift = s.cs.shift := perOp_get_set_other (op' := .shift) _ _ hop.symm
  ⟨⟨h.core.port, h.core.phase, h.core.cursor, h.core.wipers, hshift.trans h.core.shift⟩, h.phase, h.seq, h.high, h.low, h.data⟩

theorem Known.setCursor (h : Known ph hi lo d s) {c r : Nat} (hcr : ∀ g, ph.geom = some g → c < g.cols ∧ r < g.rows) :
    Known ph hi lo d (s.setCursor c r) :=
  ⟨⟨h.core.port, h.core.phase, fun g hg => hcr g (by rw [← h.phase]; exact hg), h.core.wipers, h.core.shift⟩, h.phase, h.seq,
    h.high, h.low, h.data⟩

end

/-! ## Transfers -/

/-- `settles` asks less when more is known before. -/
theorem settles_mono {sg : SigMap} {ms : List Micro} {l p l' p' : Bool} (hl : l = true → l' = true) (hp : p = true → p' = true)
    (h : settles sg l p ms = true) : settles sg l' p' ms = true := by
  induction ms generalizing l p l' p' with
  | nil =>
    simp only [settles, Bool.and_eq_true] at h ⊢
    exact ⟨hl h.1, hp h.2⟩
  | cons m ms ih =>
    cases m with
    | signal m on =>
      refine ih ?_ hp h
      cases on <;> simp only [Bool.false_eq_true, if_false, if_true, Bool.or_eq_true, Bool.and_eq_true]
      · exact Or.imp_left hl
      · exact And.imp_left hl
    | dir q m input =>
      cases q with
      | control => exact ih hl hp h
      | data =>
        refine ih hl ?_ h
        cases input <;> simp only [Bool.false_eq_true, if_false, if_true, Bool.or_eq_true, Bool.and_eq_true]
        · exact Or.imp_left hp
        · exact And.imp_left hp
    | wait => exact ih id hp h
    | poll n => exact h
    | _ => exact ih hl hp h

/-- The phase of a Ready block that is neither faulted nor closed, its geometry being `g`. -/
structure Phase.Serving (ph : Phase) (g : Geometry) : Prop where
  ctrl : ph.ctrl = .ready
  geom : ph.geom = some g
  closed : ph.closed = false
  faulted : ph.faulted = false

/-- The control bits known to be 0 if RS, RW and EN are known to be low. -/
def lowLines (sg : SigMap) (lines : Bool) : Byte := if lines then lineMask sg else 0x00

/-- The data port's direction if it is known to be an output. -/
def outPort (port : Bool) : Option Byte := if port then some 0x00 else none

/-- What is known of a Ready block between two steps of a transfer: both potentiometers are deselected; RS, RW and EN are low if
`lines`, the data port is an output if `port`. -/
abbrev Serves (ph : Phase) (lines port : Bool) (s : State) : Prop :=
  Known ph (ph.sig.ccs ||| ph.sig.bcs) (lowLines ph.sig lines) (outPort port) s

theorem lineMask_and_selects {sg : SigMap} (h : sg.wf = true) : lineMask sg &&& (sg.ccs ||| sg.bcs) = 0x00#8 := by
  have hd := SigMap.wf_disjoint h
  simp [lineMask, or_disjoint, disjoint_or, hd.rs_ccs, hd.rw_ccs, hd.en_ccs, hd.rs_bcs, hd.rw_bcs, hd.en_bcs]

section
variable {ph : Phase} {g : Geometry} {s : State} {lines port : Bool}

/-- Held by a poll, a Ready request is left as the invariant asks. -/
theorem Serves.inv_setSeq (hph : ph.Serving g) (h : Serves ph lines port s) {m : Micro} {ms : List Micro}
    (hms : ∀ x ∈ m :: ms, x.mayBeHeld ph.sig g) (hset : settles ph.sig false false (m :: ms) = true) :
    Inv (s.setSeq (m :: ms)) where
  port := h.core.port
  sig := h.core.phase.sig
  positions := h.core.phase.positions
  cursor := h.core.cursor
  wipers := h.core.wipers
  mode := h.core.phase.mode
  settled := fun _ hc => by
    have : s.ctrl = .ready := (congrArg Phase.ctrl h.phase).trans hph.ctrl
    exact absurd (this.symm.trans hc) (by decide)
  idle := fun _ hs => by cases hs
  data := fun _ hs => by cases hs
  selects := fun _ _ => by
    rw [State.setSeq_cfg, State.setSeq_shadow, h.sig]
    exact and_or_eq_self.1 h.high
  power := h.core.phase.power
  shift := h.core.shift
  held := fun _ => ⟨(congrArg Phase.ctrl h.phase).trans hph.ctrl, (congrArg Phase.faulted h.phase).trans hph.faulted,
    (congrArg Phase.closed h.phase).trans hph.closed, by rw [State.setSeq_cfg, h.sig]; exact hset, g,
    (congrArg Phase.geom h.phase).trans hph.geom, fun m hm => by rw [State.setSeq_cfg, h.sig]; exact hms m hm⟩

/-- A poll leaves RS and EN low, RW high and the data port an output, whether it is done or held. -/
theorem Serves.yields_busyPoll (h : Serves ph lines port s) (fuel n : Nat) :
    Yields (PollEnds (Serves ph false true)) (busyPoll fuel n s) :=
  Known.yields_busyPoll fuel n h (lineMask_and_selects (by rw [← h.phase]; exact h.core.phase.sig))

/-- In a Ready block a wait is a poll. -/
theorem Serves.yields_waitReady (hph : ph.Serving g) (h : Serves ph lines port s) :
    Yields (PollEnds (Serves ph false true)) (waitReady s) := by
  have hmode : s.waitMode = .busyPoll := h.core.phase.mode.2 ((congrArg Phase.ctrl h.phase).trans hph.ctrl)
  unfold waitReady
  rw [hmode]
  exact h.yields_busyPoll _ _

/-- A signal that is no select, with what `settles` counts of it. -/
theorem Serves.yields_setSignal (h : Serves ph lines port s) {m : Byte} (on : Bool)
    (hm : m &&& (ph.sig.ccs ||| ph.sig.bcs) = 0x00#8) :
    Yields (Serves ph (if on then lines && decide (m &&& lineMask ph.sig = 0x00#8)
      else lines || decide (lineMask ph.sig &&& ~~~m = 0x00#8)) port) (setSignal m on s) := by
  refine Known.yields_setSignal h m on (by rw [maskBits_and_of_disjoint on _ hm, h.high]) ?_
  have hlow := h.low
  cases on <;> cases lines <;> simp only [lowLines, Bool.false_eq_true, if_false, if_true, Bool.true_and, Bool.false_and,
    Bool.true_or, Bool.false_or, decide_eq_true_eq] at hlow ⊢
  · split
    · exact maskBits_false_and_of_covers _ ‹_›
    · exact BitVec.and_zero
  · exact maskBits_false_and_of_low hlow
  · exact BitVec.and_zero
  · split
    · rw [maskBits_and_of_disjoint true _ ‹_›, hlow]
    · exact BitVec.and_zero

/-- The data port turned whole, with what `settles` counts of it. -/
theorem Serves.yields_setDir (h : Serves ph lines port s) (input : Bool) :
    Yields (Serves ph lines (if input then port && decide (0xFF#8 = 0x00#8) else port || decide (0xFF#8 = 0xFF#8)))
      (setDir .data 0xFF input s) := by
  refine (Known.yields_setDir_data h input).mono fun t ht => ?_
  cases input
  · rw [decide_eq_true rfl, Bool.or_true]
    exact ht
  · rw [decide_eq_false (by decide), Bool.and_false]
    exact ht.forget_data

end

/-- A Ready request's transfers end at idle levels or are held, from wherever `settles` says they settle
(70_reset_and_hazards.md R314). -/
theorem inv_run_serves {ph : Phase} {g : Geometry} (hph : ph.Serving g) (ms : List Micro) (s : State) (lines port : Bool)
    (h : Serves ph lines port s) (hms : ∀ m ∈ ms, m.mayBeHeld ph.sig g) (hset : settles ph.sig lines port ms = true) :
    Inv (run ms s) := by
  induction ms generalizing s lines port with
  | nil =>
    simp only [settles, Bool.and_eq_true] at hset
    obtain ⟨rfl, rfl⟩ := hset
    exact Known.inv h (by rw [hph.ctrl]; decide)
  | cons m ms ih =>
    rw [List.forall_mem_cons] at hms
    obtain ⟨hm, hms⟩ := hms
    have completes : ∀ l p, Yields (Completes (Serves ph l p)) (perform m s) → settles ph.sig l p ms = true →
        Inv (run (m :: ms) s) := fun l p hy hset =>
      inv_run_cons hy (fun t ht => ih t l p ht hms hset) fun _ _ hf => hf.elim
    have polls : Yields (PollEnds (Serves ph false true)) (perform m s) → settles ph.sig false true ms = true →
        Inv (run (m :: ms) s) := by
      intro hy hset
      refine inv_run_cons hy (fun t ht => ih t false true ht hms hset) ?_
      rintro _ t ⟨⟨n, rfl⟩, ht⟩
      exact ht.inv_setSeq hph (List.forall_mem_cons.2 ⟨trivial, hms⟩) hset
    cases m with
    | signal m on => exact completes _ _ (h.yields_setSignal on hm.2).plain hset
    | dir q m input =>
      obtain ⟨rfl, rfl⟩ := hm
      exact completes _ _ (h.yields_setDir input).plain hset
    | dataOut b => exact completes _ _ (Known.yields_dataOut h b).plain hset
    | sample =>
      refine completes lines port ?_ hset
      have hr := Known.yields_portIn h
      rw [perform]
      split <;> rename_i ht <;> rw [ht] at hr
      · exact hr
      · exact Known.traffic hr
    | wait => exact polls (h.yields_waitReady hph) (settles_mono id (fun _ => rfl) hset)
    | poll n => exact polls (h.yields_busyPoll _ _) hset
    | delay t => exact completes lines port (Known.traffic h) hset
    | record op v => exact completes lines port (Known.record h hm v) hset
    | cursor c r =>
      refine completes lines port (Known.setCursor h fun g' hg' => ?_) hset
      rw [hph.geom, Option.some_inj] at hg'
      exact hg' ▸ hm
    | respond => exact completes lines port (Known.answer h _) hset
    | pos => exact hm.elim
    | mode => exact hm.elim
    | ctrl => exact hm.elim
    | powered => exact hm.elim
    | close => exact hm.elim

end Sys2Proof.Machine
end

section
/-! SUPPORT. The requests a Ready block answers by transfers (41_lcd_control.md R176 to R183, 42_text_and_memory.md): each is a
list of transfers that leave the lines and the data port as they found them, at idle levels. -/

namespace Sys2Proof.Machine

/-! ## Lists of transfers -/

/-- Steps of a held request which, begun at idle levels, are back at idle levels at their end. -/
structure Transfers (sg : SigMap) (g : Geometry) (ms : List Micro) : Prop where
  held : ∀ m ∈ ms, m.mayBeHeld sg g
  settle : ∀ rest, settles sg true true rest = true → settles sg true true (ms ++ rest) = true

section
variable {sg : SigMap} {g : Geometry}

theorem Transfers.nil : Transfers sg g [] := ⟨fun _ hm => (by cases hm), fun _ h => h⟩

theorem Transfers.append {a b : List Micro} (ha : Transfers sg g a) (hb : Transfers sg g b) : Transfers sg g (a ++ b) :=
  ⟨fun m hm => (List.mem_append.1 hm).elim (ha.held m) (hb.held m), fun rest h => by
    rw [List.append_assoc]
    exact ha.settle _ (hb.settle _ h)⟩

theorem Transfers.flatMap {α : Type} {f : α → List Micro} (hf : ∀ x, Transfers sg g (f x)) (l : List α) :
    Transfers sg g (l.flatMap f) := by
  induction l with
  | nil => exact Transfers.nil
  | cons x l ih => exact (hf x).append ih

theorem Transfers.respond : Transfers sg g [.respond] :=
  ⟨fun m hm => by rw [List.mem_singleton.1 hm]; trivial, fun _ h => h⟩

theorem Transfers.cursor {c r : Nat} (hc : c < g.cols) (hr : r < g.rows) : Transfers sg g [.cursor c r] :=
  ⟨fun m hm => by rw [List.mem_singleton.1 hm]; exact ⟨hc, hr⟩, fun _ h => h⟩

/-- A signal of RS, RW and EN alone may stand in a held request. -/
theorem signal_mayBeHeld (hsg : sg.wf = true) {m : Byte} (hm : m ∈ [sg.rs, sg.rw, sg.en, sg.rs ||| sg.rw, lineMask sg]) (on : Bool) :
    (Micro.signal m on).mayBeHeld sg g := by
  have hd := SigMap.wf_disjoint hsg
  simp only [List.mem_cons, List.not_mem_nil, or_false] at hm
  rcases hm with rfl | rfl | rfl | rfl | rfl <;>
    simp [Micro.mayBeHeld, lineMask, or_disjoint, disjoint_or, hd.rs_irs, hd.rw_irs, hd.en_irs, hd.rs_ccs, hd.rw_ccs, hd.en_ccs,
      hd.rs_bcs, hd.rw_bcs, hd.en_bcs]

/-- `signal lineMask false` brings the lines to idle. -/
theorem settles_lines_low {l p : Bool} {rest : List Micro} (h : settles sg true p rest = true) :
    settles sg l p (.signal (lineMask sg) false :: rest) = true := by
  have : lineMask sg &&& ~~~(lineMask sg) = 0x00#8 := BitVec.and_not_self _
  simpa [settles, this] using h

/-- A signal whose level does not matter. -/
theorem settles_signal {l p : Bool} {m : Byte} {on : Bool} {rest : List Micro} (h : settles sg false p rest = true) :
    settles sg l p (.signal m on :: rest) = true := by
  rw [settles]
  exact settles_mono (l := false) (fun hf => nomatch hf) id h

theorem Transfers.command (hsg : sg.wf = true) {op : LcdOp} (hop : op ≠ .shift) (v : Byte) :
    Transfers sg g (command sg op v) where
  held m hm := by
    simp only [Machine.command, instructionCycle, List.cons_append, List.nil_append, List.mem_cons, List.not_mem_nil,
      or_false] at hm
    rcases hm with rfl | rfl | rfl | rfl | rfl | rfl
    · trivial
    · exact signal_mayBeHeld hsg (by simp) _
    · exact signal_mayBeHeld hsg (by simp) _
    · trivial
    · exact signal_mayBeHeld hsg (by simp) _
    · exact hop
  settle _ h := settles_signal (m := sg.rs ||| sg.rw) (on := false) (settles_signal (m := sg.en) (on := true) (settles_lines_low h))

/-- The cycles of a data block of bytes written. -/
theorem settles_blockBytes (bs : List Byte) {p : Bool} {rest : List Micro} (h : settles sg false p rest = true) :
    settles sg false p (bs.flatMap (blockByte sg) ++ rest) = true := by
  induction bs with
  | nil => exact h
  | cons b bs ih =>
    exact settles_signal (m := sg.en) (on := true) (settles_signal (m := sg.en) (on := false) ih)

/-- The cycles of a block of bytes read. -/
theorem settles_readBytes (n : Nat) {p : Bool} {rest : List Micro} (h : settles sg false p rest = true) :
    settles sg false p ((List.replicate n (readByte sg)).flatten ++ rest) = true := by
  induction n with
  | zero => exact h
  | succ n ih => exact settles_signal (m := sg.en) (on := true) (settles_signal (m := sg.en) (on := false) ih)

theorem Transfers.writeBlock (hsg : sg.wf = true) (bs : List Byte) : Transfers sg g (writeBlock sg bs) := by
  cases bs with
  | nil => exact Transfers.nil
  | cons b bs =>
    refine ⟨fun m hm => ?_, fun rest h => ?_⟩
    · simp only [Machine.writeBlock, writeCycles, blockByte, List.cons_append, List.nil_append, List.mem_cons, List.mem_append,
        List.mem_flatMap, List.not_mem_nil, or_false] at hm
      rcases hm with rfl | rfl | rfl | ⟨_, -, rfl | rfl | rfl⟩ | rfl
      · trivial
      · exact signal_mayBeHeld hsg (by simp) _
      · exact signal_mayBeHeld hsg (by simp) _
      · exact signal_mayBeHeld hsg (by simp) _
      · trivial
      · exact signal_mayBeHeld hsg (by simp) _
      · exact signal_mayBeHeld hsg (by simp) _
    · simp only [Machine.writeBlock, writeCycles, List.append_assoc, List.cons_append, List.nil_append]
      exact settles_signal (m := sg.rw) (on := false) (settles_signal (m := sg.rs) (on := true)
        (settles_blockBytes _ (settles_lines_low h)))

theorem Transfers.readBlock (hsg : sg.wf = true) (n : Nat) : Transfers sg g (readBlock sg n) := by
  cases n with
  | zero => exact Transfers.nil
  | succ n =>
    refine ⟨fun m hm => ?_, fun rest h => ?_⟩
    · simp only [Machine.readBlock, readCycles, List.cons_append, List.nil_append, List.mem_cons, List.mem_append,
        List.mem_flatten, List.mem_replicate, List.not_mem_nil, or_false] at hm
      rcases hm with rfl | rfl | rfl | rfl | ⟨_, ⟨-, rfl⟩, hm⟩ | rfl | rfl
      · trivial
      · exact signal_mayBeHeld hsg (by simp) _
      · exact signal_mayBeHeld hsg (by simp) _
      · exact ⟨rfl, rfl⟩
      · simp only [readByte, List.mem_cons, List.not_mem_nil, or_false] at hm
        rcases hm with rfl | rfl | rfl
        · exact signal_mayBeHeld hsg (by simp) _
        · trivial
        · exact signal_mayBeHeld hsg (by simp) _
      · exact ⟨rfl, rfl⟩
      · exact signal_mayBeHeld hsg (by simp) _
    · have output : settles sg false false (.dir .data 0xFF false :: .signal (lineMask sg) false :: rest) = true :=
        settles_lines_low h
      simp only [Machine.readBlock, readCycles, List.append_assoc, List.cons_append, List.nil_append]
      exact settles_signal (m := sg.rs) (on := true) (settles_signal (m := sg.rw) (on := true) (settles_readBytes _ output))

end

/-! ## PRINT's cursor -/

/-- The row below is a row. -/
theorem nextRow_lt {g : Geometry} (h : 0 < g.rows) (r : Nat) : nextRow g r < g.rows := Nat.mod_lt _ h

/-- A cursor on the display. -/
def OnDisplay (g : Geometry) (c r : Nat) : Prop := c < g.cols ∧ r < g.rows

theorem layoutSpans_onDisplay {g : Geometry} (hg : OnDisplay g 0 0) (spans : List (List Byte)) (first : Bool) (c r : Nat)
    (h : OnDisplay g c r) : OnDisplay g (layoutSpans g first spans c r).col (layoutSpans g first spans c r).row := by
  obtain ⟨hcols, hrows⟩ := hg
  induction spans generalizing first c r with
  | nil => exact h
  | cons sp rest ih =>
    simp only [layoutSpans]
    refine ih _ _ _ ?_
    generalize (!first && decide (c ≠ 0)) = advance
    have h1 : OnDisplay g (if advance then 0 else c) (if advance then nextRow g r else r) := by
      cases advance
      · exact h
      · exact ⟨hcols, nextRow_lt hrows r⟩
    generalize (if advance then 0 else c) = c1 at h1 ⊢
    generalize (if advance then nextRow g r else r) = r1 at h1 ⊢
    by_cases hfull : g.cols ≤ c1 + sp.length
    · simp only [hfull, decide_true, if_true]
      exact ⟨hcols, nextRow_lt hrows r1⟩
    · simp only [hfull, decide_false, Bool.false_eq_true, if_false]
      exact ⟨Nat.lt_of_not_le hfull, h1.2⟩

theorem layoutText_onDisplay {g : Geometry} (hg : OnDisplay g 0 0) (text : List Byte) {c r : Nat} (h : OnDisplay g c r) :
    OnDisplay g (layoutText g text c r).col (layoutText g text c r).row := by
  unfold layoutText
  generalize splitLines text = lines
  generalize true = first
  induction lines generalizing first c r with
  | nil => exact h
  | cons line rest ih =>
    simp only [layoutLines]
    refine ih (layoutSpans_onDisplay hg _ _ _ _ ?_) _
    cases first
    · exact ⟨hg.1, nextRow_lt hg.2 r⟩
    · exact h

/-! ## Requests -/

/-- A refusal keeps the invariant of an idle block. -/
theorem inv_refuse {s : State} (h : Inv s) (hs : s.seq = []) (e : Status) : Inv (refuse e s) where
  port := h.port
  sig := h.sig
  positions := h.positions
  cursor := h.cursor
  wipers := h.wipers
  mode := h.mode
  settled := h.settled
  idle := fun hf _ => h.idle hf hs
  data := fun hf _ => h.data hf hs
  selects := h.selects
  power := h.power
  shift := h.shift
  held := fun hne => absurd rfl hne

/-- A request keeps the invariant if its steps do where R277 admits it. -/
theorem inv_serve {s : State} (h : Inv s) (hs : s.seq = []) {needReady : Bool} {prog : Geometry → Except Status (List Micro)}
    (hrun : ∀ g ms, s.geom = some g → admission needReady s = none → prog g = .ok ms → Inv (run ms s.begin)) :
    Inv (serve needReady prog s) := by
  rcases serve_cases needReady prog s with ⟨e, he⟩ | ⟨g, ms, hg, ha, hp, hr⟩
  · rw [he]
    exact inv_refuse h hs e
  · rw [hr]
    exact hrun g ms hg ha hp

/-- What R277 admits without the Ready check. -/
theorem admission_none {b : Bool} {s : State} (h : admission b s = none) : s.faulted = false ∧ s.closed = false := by
  unfold admission at h
  split at h
  · cases h
  · split at h
    · cases h
    · exact ⟨by simpa using ‹¬s.faulted = true›, by simpa using ‹¬s.closed = true›⟩

/-- What R277 admits with it. -/
theorem admission_ready {s : State} (h : admission true s = none) : s.ctrl = .ready := by
  obtain ⟨hf, hc⟩ := admission_none h
  by_contra hr
  simp [admission, hf, hc, hr] at h

theorem serving_of_admission {s : State} {g : Geometry} (hg : s.geom = some g) (ha : admission true s = none) :
    s.phase.Serving g :=
  ⟨admission_ready ha, hg, (admission_none ha).2, (admission_none ha).1⟩

/-- A Ready block between requests: idle levels, both potentiometers deselected. -/
theorem Inv.serves {s : State} {g : Geometry} (h : Inv s) (hs : s.seq = []) (hph : s.phase.Serving g) :
    Serves s.phase true true s.begin where
  core := h.core.traffic
  phase := rfl
  seq := rfl
  high := and_or_eq_self.2 (h.selects hph.faulted (.inl hph.ctrl))
  low := h.idle hph.faulted hs (h.data hph.faulted hs hph.ctrl)
  data := fun _ hb => (h.data hph.faulted hs hph.ctrl).trans (Option.some_inj.1 hb)

/-- A request that needs a Ready block and whose steps are transfers keeps the invariant. -/
theorem inv_serve_transfers {s : State} (h : Inv s) (hs : s.seq = []) {prog : Geometry → Except Status (List Micro)}
    (hprog : ∀ g ms, s.geom = some g → prog g = .ok ms → Transfers s.cfg.sig g ms) : Inv (serve true prog s) :=
  inv_serve h hs fun g ms hg ha hp =>
    have hph := serving_of_admission hg ha
    have ht := hprog g ms hg hp
    inv_run_serves hph ms _ true true (h.serves hs hph) ht.held (by have := ht.settle [] rfl; rwa [List.append_nil] at this)

section
variable {s : State} (h : Inv s) (hs : s.seq = [])
include h hs

theorem inv_homing {op : LcdOp} (hop : op ≠ .shift) : Inv (serve true (fun _ => .ok (homingSteps s.cfg.sig op)) s) := by
  refine inv_serve_transfers h hs fun g ms hg hms => ?_
  obtain ⟨hc, hr⟩ := h.positions g hg
  cases hms
  exact (Transfers.command h.sig hop _).append ((Transfers.cursor hc hr).append Transfers.respond)

theorem inv_setCursor (a0 a1 : Byte) : Inv (serve true (fun g => .ok (setCursorSteps s.cfg.sig g a0 a1)) s) := by
  refine inv_serve_transfers h hs fun g ms hg hms => ?_
  obtain ⟨hc, hr⟩ := h.positions g hg
  cases hms
  exact (Transfers.command h.sig (by decide) _).append
    ((Transfers.cursor (Nat.mod_lt _ hc) (Nat.mod_lt _ hr)).append Transfers.respond)

theorem inv_toggle (bit : Byte) (on : Bool) : Inv (serve true (fun _ => .ok (toggleSteps s bit on)) s) := by
  refine inv_serve_transfers h hs fun g ms _ hms => ?_
  cases hms
  exact (Transfers.command h.sig (by decide) _).append Transfers.respond

theorem inv_print (text : List Byte) : Inv (serve true (fun g => .ok (printSteps s g text)) s) := by
  refine inv_serve_transfers h hs fun g ms hg hms => ?_
  obtain ⟨hc, hr⟩ := layoutText_onDisplay (h.positions g hg) text (h.cursor g hg)
  have transfer : ∀ t, Transfers s.cfg.sig g (transferSteps s.cfg.sig g t) := fun t => by
    cases t with
    | address c r => exact Transfers.command h.sig (by decide) _
    | block bs => exact Transfers.writeBlock h.sig bs
  cases hms
  exact (Transfers.flatMap transfer _).append ((Transfers.cursor hc hr).append Transfers.respond)

theorem inv_defineGlyph (index : Byte) (bitmap : List Byte) : Inv (serve true (glyphSteps s index bitmap) s) := by
  refine inv_serve_transfers h hs fun g ms _ hms => ?_
  unfold glyphSteps at hms
  split at hms
  · cases hms
  · cases hms
    exact (((Transfers.command h.sig (by decide) _).append (Transfers.writeBlock h.sig bitmap)).append
      (Transfers.command h.sig (by decide) _)).append Transfers.respond

theorem inv_readRow (row : Byte) : Inv (serve true (readRowSteps s row) s) := by
  refine inv_serve_transfers h hs fun g ms _ hms => ?_
  unfold readRowSteps at hms
  split at hms
  · cases hms
  · cases hms
    exact (((Transfers.command h.sig (by decide) _).append (Transfers.readBlock h.sig _)).append
      (Transfers.command h.sig (by decide) _)).append Transfers.respond

end

end Sys2Proof.Machine
end

section
/-! SUPPORT. The potentiometer requests (43_potentiometer.md) and the lifecycle requests (41_lcd_control.md R170 to R175) keep
the invariant. -/

namespace Sys2Proof.Machine

/-! ## Parts of the pseudocode that wait for nothing -/

section
variable {ph : Phase} {hi lo : Byte} {d : Option Byte}

/-- A step that sets no pin of `hi` or `lo` and leaves the data port alone. -/
def Micro.spares (hi lo : Byte) : Micro → Prop
  | .signal m _ => m &&& hi = 0x00#8 ∧ m &&& lo = 0x00#8
  | .dir p _ _ => p = .control
  | .dataOut _ => True
  | .delay _ => True
  | _ => False

theorem leads_spares {ms : List Micro} (h : ∀ m ∈ ms, m.spares hi lo) :
    Leads (Known ph hi lo d) ms (Known ph hi lo d) := by
  induction ms with
  | nil => exact Leads.nil fun _ hs => hs
  | cons m ms ih =>
    rw [List.forall_mem_cons] at h
    refine Leads.cons (fun s hs => ?_) (ih h.2)
    have hm := h.1
    cases m with
    | signal m on => exact (hs.yields_touch on hm.1 hm.2).plain
    | dir p m input =>
      cases hm
      exact (hs.yields_setDir_control m input).plain
    | dataOut b => exact (hs.yields_dataOut b).plain
    | delay t => exact hs.traffic
    | _ => exact hm.elim

theorem leads_raise {m : Byte} (hhi : m &&& hi = 0x00#8) (hlo : m &&& lo = 0x00#8) :
    Leads (Known ph hi lo d) [.signal m true] (Known ph (hi ||| m) lo d) :=
  Leads.cons (fun _ hs => (hs.yields_raise hhi hlo).plain) (Leads.nil fun _ h => h)

/-- Lowering signals of which nothing was known. -/
theorem leads_lower {m : Byte} (hhi : m &&& hi = 0x00#8) :
    Leads (Known ph hi lo d) [.signal m false] (Known ph hi m d) :=
  Leads.cons (fun _ hs => (hs.yields_setSignal m false (by rw [maskBits_and_of_disjoint false _ hhi, hs.high])
    (maskBits_false_and_of_covers _ (BitVec.and_not_self _))).plain) (Leads.nil fun _ h => h)

/-- Steps that make no transaction. -/
theorem leads_of_run {P Q : State → Prop} {ms : List Micro} {f : State → State}
    (hrun : ∀ s rest, run (ms ++ rest) s = run rest (f s)) (hQ : ∀ s, P s → Q (f s)) : Leads P ms Q := fun s rest hs k => by
  rw [hrun]
  exact k _ (hQ s hs)

/-! ## Potentiometers -/

/-- The signals of a potentiometer are none of those known to be at a level. -/
def PotFree (sg : SigMap) (k : Pot) (hi lo : Byte) : Prop := (selectMask sg k ||| sg.ud) &&& (hi ||| lo) = 0x00#8

theorem potFree_iff {sg : SigMap} {k : Pot} :
    PotFree sg k hi lo ↔ (selectMask sg k &&& hi = 0x00#8 ∧ selectMask sg k &&& lo = 0x00#8) ∧
      sg.ud &&& hi = 0x00#8 ∧ sg.ud &&& lo = 0x00#8 := by
  rw [PotFree, or_disjoint, disjoint_or, disjoint_or]

section
variable {sg : SigMap} {k : Pot} (hk : PotFree sg k hi lo)
include hk

theorem leads_pulses {ms : List Micro} (h : ∀ m ∈ ms, ∃ on, m = .signal sg.ud on ∨ m = .signal (selectMask sg k) on) :
    Leads (Known ph hi lo d) (ms ++ [.signal (selectMask sg k) true]) (Known ph (hi ||| selectMask sg k) lo d) := by
  obtain ⟨hsel, hud⟩ := potFree_iff.1 hk
  refine (leads_spares fun m hm => ?_).append (leads_raise hsel.1 hsel.2)
  obtain ⟨on, rfl | rfl⟩ := h m hm
  · exact hud
  · exact hsel

/-- R241: the pulse ends with the select high. -/
theorem leads_stepPulse (up : Bool) :
    Leads (Known ph hi lo d) (stepPulse sg k up) (Known ph (hi ||| selectMask sg k) lo d) :=
  leads_pulses hk (ms := [.signal sg.ud up, .signal (selectMask sg k) false]) fun _ hm => by
    simp only [List.mem_cons, List.not_mem_nil, or_false] at hm
    exact hm.elim (fun h => ⟨_, .inl h⟩) (fun h => ⟨_, .inr h⟩)

/-- R244: the burst ends with the select high. -/
theorem leads_burst (up : Bool) (n : Nat) :
    Leads (Known ph hi lo d) (burst sg k up n) (Known ph (hi ||| selectMask sg k) lo d) := by
  refine leads_pulses hk fun m hm => ?_
  simp only [burstPulse, List.cons_append, List.nil_append, List.mem_cons, List.mem_flatten, List.mem_replicate] at hm
  rcases hm with rfl | rfl | ⟨_, ⟨-, rfl⟩, hm⟩
  · exact ⟨_, .inl rfl⟩
  · exact ⟨_, .inr rfl⟩
  · simp only [List.mem_cons, List.not_mem_nil, or_false] at hm
    rcases hm with rfl | rfl
    · exact ⟨_, .inl rfl⟩
    · exact ⟨_, .inl rfl⟩

omit hk in
theorem leads_pos {p : Nat} (hp : p ≤ 63) : Leads (Known ph hi lo d) [.pos k p] (Known ph hi lo d) := by
  refine leads_of_run (f := fun s => s.setPosOf k p) (fun _ _ => rfl) fun s hs => ?_
  cases k
  · exact ⟨⟨hs.core.port, hs.core.phase, hs.core.cursor, ⟨hp, hs.core.wipers.2⟩, hs.core.shift⟩, hs.phase, hs.seq, hs.high,
      hs.low, hs.data⟩
  · exact ⟨⟨hs.core.port, hs.core.phase, hs.core.cursor, ⟨hs.core.wipers.1, hp⟩, hs.core.shift⟩, hs.phase, hs.seq, hs.high,
      hs.low, hs.data⟩

/-- R242. -/
theorem leads_inc (p : Nat) : Leads (Known ph hi lo d) (inc sg k p) (Known ph (hi ||| selectMask sg k) lo d) :=
  (leads_stepPulse hk true).append (leads_pos (Nat.min_le_right _ _))

/-- R243. -/
theorem leads_dec {p : Nat} (hp : p ≤ 63) : Leads (Known ph hi lo d) (dec sg k p) (Known ph (hi ||| selectMask sg k) lo d) :=
  (leads_stepPulse hk false).append (leads_pos (Nat.le_trans (Nat.sub_le _ _) hp))

/-- R245, from a deselected potentiometer. -/
theorem leads_setWiper (p target : Nat) :
    Leads (Known ph (hi ||| selectMask sg k) lo d) (setWiper sg k p target) (Known ph (hi ||| selectMask sg k) lo d) := by
  simp only [setWiper]
  split
  · exact Leads.nil fun _ h => h
  · intro s rest hs
    exact ((leads_burst hk _ _).append (leads_pos (Nat.min_le_right _ _))) s rest hs.forget_high

/-- R246. -/
theorem leads_potPowerOn (p : Nat) :
    Leads (Known ph hi lo d) (potPowerOn sg k p) (Known ph (hi ||| selectMask sg k) lo d) := by
  obtain ⟨hsel, -⟩ := potFree_iff.1 hk
  exact ((leads_spares (ms := [.dir .control (selectMask sg k ||| sg.ud) false]) (by simp [Micro.spares])).append
    (leads_raise hsel.1 hsel.2)).append (leads_setWiper hk p 0)

end

end

theorem and_zero_comm {a b : Byte} (h : a &&& b = 0x00#8) : b &&& a = 0x00#8 := by rw [BitVec.and_comm, h]

/-- The lines share no bit with the other driven signals. -/
theorem lineMask_disjoint {sg : SigMap} (h : sg.wf = true) :
    lineMask sg &&& sg.ccs = 0x00#8 ∧ lineMask sg &&& sg.bcs = 0x00#8 ∧ lineMask sg &&& sg.ud = 0x00#8 ∧
      lineMask sg &&& sg.pwr = 0x00#8 := by
  have hd := SigMap.wf_disjoint h
  simp only [lineMask, or_disjoint]
  exact ⟨⟨⟨hd.rs_ccs, hd.rw_ccs⟩, hd.en_ccs⟩, ⟨⟨hd.rs_bcs, hd.rw_bcs⟩, hd.en_bcs⟩, ⟨⟨hd.rs_ud, hd.rw_ud⟩, hd.en_ud⟩,
    ⟨hd.rs_pwr, hd.rw_pwr⟩, hd.en_pwr⟩

/-- Beside its own select, a potentiometer's signals leave the other select and the lines alone. -/
theorem exists_other_select {sg : SigMap} (h : sg.wf = true) (k : Pot) :
    ∃ o, o ||| selectMask sg k = sg.ccs ||| sg.bcs ∧ PotFree sg k o (lineMask sg) := by
  have hd := SigMap.wf_disjoint h
  obtain ⟨hccs, hbcs, hud, -⟩ := lineMask_disjoint h
  cases k with
  | contrast =>
    exact ⟨sg.bcs, BitVec.or_comm _ _,
      potFree_iff.2 ⟨⟨hd.ccs_bcs, and_zero_comm hccs⟩, and_zero_comm hd.bcs_ud, and_zero_comm hud⟩⟩
  | backlight =>
    exact ⟨sg.ccs, rfl,
      potFree_iff.2 ⟨⟨and_zero_comm hd.ccs_bcs, and_zero_comm hbcs⟩, and_zero_comm hd.ccs_ud, and_zero_comm hud⟩⟩

/-- A potentiometer request keeps the invariant if its operation ends with the select high. -/
theorem inv_potRequest {s : State} (h : Inv s) (hs : s.seq = []) {k : Pot} {ms : List Micro}
    (hms : ∀ o, PotFree s.cfg.sig k o (lineMask s.cfg.sig) →
      Leads (Known s.phase (o ||| selectMask s.cfg.sig k) (lineMask s.cfg.sig) (some 0x00)) ms
        (Known s.phase (o ||| selectMask s.cfg.sig k) (lineMask s.cfg.sig) (some 0x00))) :
    Inv (potRequest ms s) := by
  refine inv_serve h hs fun g ms' hg ha hms' => ?_
  cases hms'
  have hph := serving_of_admission hg ha
  obtain ⟨o, ho, hfree⟩ := exists_other_select h.sig k
  have hlead := hms o hfree
  rw [ho] at hlead
  refine hlead _ [.respond] (h.serves hs hph) fun t ht => ?_
  exact Known.inv (ht.answer _) (by rw [hph.ctrl]; decide)

section
variable {s : State} (h : Inv s) (hs : s.seq = [])
include h hs

theorem inv_setWiper (k : Pot) (p target : Nat) : Inv (potRequest (setWiper s.cfg.sig k p target) s) :=
  inv_potRequest h hs fun _ hfree => leads_setWiper hfree p target

theorem inv_inc (k : Pot) (p : Nat) : Inv (potRequest (inc s.cfg.sig k p) s) :=
  inv_potRequest h hs fun _ hfree t rest ht => leads_inc hfree p t rest ht.forget_high

theorem inv_dec (k : Pot) {p : Nat} (hp : p ≤ 63) : Inv (potRequest (dec s.cfg.sig k p) s) :=
  inv_potRequest h hs fun _ hfree t rest ht => leads_dec hfree hp t rest ht.forget_high

end

/-! ## POWER_ON -/

/-- A change of phase. -/
theorem Known.setPhase {ph ph' : Phase} {hi lo : Byte} {d : Option Byte} {s : State} (h : Known ph hi lo d s) {w : WaitMode}
    {c : Ctrl} {b cl : Bool} (hph : State.phase { s with waitMode := w, ctrl := c, powered := b, closed := cl } = ph')
    (hmode : w = .busyPoll ↔ c = .ready) (hpower : c = .ready → b = true) :
    Known ph' hi lo d { s with waitMode := w, ctrl := c, powered := b, closed := cl } :=
  ⟨⟨h.core.port, ⟨h.core.phase.sig, h.core.phase.positions, hmode, hpower⟩, h.core.cursor, h.core.wipers, h.core.shift⟩, hph,
    h.seq, h.high, h.low, h.data⟩

theorem Known.lawful {ph : Phase} {hi lo : Byte} {d : Option Byte} {s : State} (h : Known ph hi lo d s) : ph.Lawful :=
  h.phase ▸ h.core.phase

/-- The phase in which `init` sends its commands (41_lcd_control.md R172). -/
def Phase.starting (ph : Phase) : Phase := { ph with mode := .timedDelay, ctrl := .initializing }

/-- The phase `init` ends in. -/
def Phase.readied (ph : Phase) : Phase := { ph with mode := .busyPoll, ctrl := .ready }

section
variable {ph : Phase} {hi : Byte} {d : Option Byte}

/-- R172: a command of `init`, sent without a poll, ends with the lines low. -/
theorem leads_initCommand (hmode : ph.mode = .timedDelay) (hhi : lineMask ph.sig &&& hi = 0x00#8) {op : LcdOp}
    (hop : op ≠ .shift) (v : Byte) (t : TimeParam) :
    Leads (Known ph hi 0x00 d) (initCommand ph.sig op v t) (Known ph hi (lineMask ph.sig) d) := by
  have hline := hhi
  rw [lineMask, or_disjoint, or_disjoint] at hline
  obtain ⟨⟨hrs, hrw⟩, hen⟩ := hline
  have wait : Leads (Known ph hi 0x00 d) [.wait] (Known ph hi 0x00 d) := by
    refine Leads.cons (fun s hs => ?_) (Leads.nil fun _ h => h)
    have : s.waitMode = .timedDelay := (congrArg Phase.mode hs.phase).trans hmode
    rw [perform, waitReady, this]
    exact hs
  have cycle : Leads (Known ph hi 0x00 d) (instructionCycle ph.sig (lcdOpcode op ||| v)) (Known ph hi (lineMask ph.sig) d) :=
    (leads_spares (ms := [.signal (ph.sig.rs ||| ph.sig.rw) false, .signal ph.sig.en true, .dataOut (lcdOpcode op ||| v)])
      (by simp [Micro.spares, or_disjoint, hrs, hrw, hen])).append (leads_lower hhi)
  have record : Leads (Known ph hi (lineMask ph.sig) d) [.record op v] (Known ph hi (lineMask ph.sig) d) :=
    leads_of_run (f := fun s => s.record op v) (fun _ _ => rfl) fun s hs => hs.record hop v
  exact (wait.append (cycle.append record)).append (leads_spares (by simp [Micro.spares]))

/-- R172: `init` makes a powered block Ready. -/
theorem leads_initProtocol {p : Params} (hsig : p.sig = ph.sig) (g : Geometry) (hpower : ph.powered = true)
    (hhi : lineMask ph.sig &&& hi = 0x00#8) :
    Leads (Known ph hi 0x00 d) (initProtocol p g) (Known ph.readied hi (lineMask ph.sig) d) := by
  have start : Leads (Known ph hi 0x00 d) [.ctrl .initializing, .mode .timedDelay] (Known ph.starting hi 0x00 d) :=
    leads_of_run (fun _ _ => rfl) fun s hs => hs.setPhase (congrArg Phase.starting hs.phase) ⟨nofun, nofun⟩ nofun
  have last : ∀ {op : LcdOp}, op ≠ .shift → ∀ v t,
      Leads (Known ph.starting hi 0x00 d) (initCommand p.sig op v t) (Known ph.starting hi (lineMask ph.sig) d) :=
    fun hop v t => by
      rw [hsig]
      exact leads_initCommand (ph := ph.starting) rfl hhi hop v t
  have inner : ∀ {op : LcdOp}, op ≠ .shift → ∀ v t,
      Leads (Known ph.starting hi 0x00 d) (initCommand p.sig op v t) (Known ph.starting hi 0x00 d) :=
    fun hop v t s rest hs k => last hop v t s rest hs fun t ht => k t ht.forget_low
  have finish : Leads (Known ph.starting hi (lineMask ph.sig) d) [.cursor 0 0, .mode .busyPoll, .ctrl .ready]
      (Known ph.readied hi (lineMask ph.sig) d) :=
    leads_of_run (fun _ _ => rfl) fun s hs =>
      (hs.setCursor hs.lawful.positions).setPhase (congrArg Phase.readied hs.phase) (iff_of_true rfl rfl)
        fun _ => (congrArg Phase.powered hs.phase).trans hpower
  exact (((((((start.append (inner (by decide) _ _)).append (inner (by decide) _ _)).append (inner (by decide) _ _)).append
    (inner (by decide) _ _)).append (inner (by decide) _ _)).append (inner (by decide) _ _)).append (last (by decide) _ _)).append
    finish

end

/-- R173: POWER_ON keeps the invariant from every state that admits it. -/
theorem inv_powerOn {s : State} (h : Inv s) (hs : s.seq = []) : Inv (serve false (fun g => .ok (powerOnSteps s g)) s) := by
  refine inv_serve h hs fun g ms _ _ hms => ?_
  cases hms
  have hd := SigMap.wf_disjoint h.sig
  obtain ⟨hccs, hbcs, -, -⟩ := lineMask_disjoint h.sig
  have begun : Known s.phase 0x00 0x00 none s.begin :=
    ⟨h.core.traffic, rfl, rfl, BitVec.and_zero, BitVec.and_zero, nofun⟩
  have ports : Leads (Known s.phase 0x00 0x00 none) (lcdPortsOut s.cfg.sig) (Known s.phase 0x00 0x00 (some 0x00)) :=
    Leads.cons (fun t ht => (ht.yields_setDir_control _ _).plain)
      (Leads.cons (fun t ht => (ht.yields_setDir_data false).plain) (Leads.nil fun _ ht => ht))
  have contrast := leads_potPowerOn (ph := s.phase) (hi := 0x00#8) (lo := 0x00) (d := some 0x00) (sg := s.cfg.sig) (k := .contrast)
    (potFree_iff.2 ⟨⟨BitVec.and_zero, BitVec.and_zero⟩, BitVec.and_zero, BitVec.and_zero⟩) s.contrast
  rw [BitVec.zero_or] at contrast
  have backlight := leads_potPowerOn (ph := s.phase) (hi := s.cfg.sig.ccs) (lo := 0x00) (d := some 0x00) (sg := s.cfg.sig)
    (k := .backlight) (potFree_iff.2 ⟨⟨and_zero_comm hd.ccs_bcs, BitVec.and_zero⟩, and_zero_comm hd.ccs_ud, BitVec.and_zero⟩)
    s.backlight
  have power : Leads (Known s.phase (s.cfg.sig.ccs ||| s.cfg.sig.bcs) 0x00 (some 0x00)) [.signal s.cfg.sig.pwr true, .powered true]
      (Known { s.phase with powered := true } (s.cfg.sig.ccs ||| s.cfg.sig.bcs) 0x00 (some 0x00)) :=
    Leads.cons (fun t ht => (ht.yields_touch true
        (disjoint_or.2 ⟨and_zero_comm hd.ccs_pwr, and_zero_comm hd.bcs_pwr⟩) BitVec.and_zero).plain)
      (leads_of_run (fun _ _ => rfl) fun t ht =>
        ht.setPhase (congrArg (fun q : Phase => { q with powered := true }) ht.phase) ht.core.phase.mode fun _ => rfl)
  have init := leads_initProtocol (ph := { s.phase with powered := true }) (d := some 0x00) (p := s.cfg) rfl g rfl
    (disjoint_or.2 ⟨hccs, hbcs⟩)
  refine ((((ports.append contrast).append backlight).append power).append init) _ [.respond] begun fun t ht => ?_
  exact Known.inv (ht.answer _) nofun

/-! ## POWER_OFF and CLOSE -/

/-- A block on its way out of power: what the invariant asks of the pins of a block that is not Ready. -/
structure Parked (sg : SigMap) (c : Ctrl) (s : State) : Prop where
  core : Core s
  sig : s.cfg.sig = sg
  faulted : s.faulted = false
  seq : s.seq = []
  ctrl : s.ctrl = c
  idle : s.dirData = 0x00#8 → s.shadow &&& lineMask sg = 0x00#8
  selects : s.contrast ≠ 0 ∨ s.backlight ≠ 0 → s.shadow &&& (sg.ccs ||| sg.bcs) = sg.ccs ||| sg.bcs

/-- The pins' part of the invariant. -/
theorem Inv.parked {s : State} (h : Inv s) (hs : s.seq = []) (hf : s.faulted = false) : Parked s.cfg.sig s.ctrl s.begin where
  core := h.core.traffic
  sig := rfl
  faulted := hf
  seq := rfl
  ctrl := rfl
  idle := h.idle hf hs
  selects := fun hor => and_or_eq_self.2 (h.selects hf (.inr hor))

section
variable {sg : SigMap} {c : Ctrl} {s : State}

theorem Parked.inv (h : Parked sg .uninitialized s) : Inv s where
  port := h.core.port
  sig := h.core.phase.sig
  positions := h.core.phase.positions
  cursor := h.core.cursor
  wipers := h.core.wipers
  mode := h.core.phase.mode
  settled := fun _ hc => by rw [h.ctrl] at hc; cases hc
  idle := fun _ _ => h.sig ▸ h.idle
  data := fun _ _ hc => by rw [h.ctrl] at hc; cases hc
  selects := fun _ hor => by
    rw [h.sig]
    exact and_or_eq_self.1 (h.selects (hor.resolve_left (by rw [h.ctrl]; decide)))
  power := h.core.phase.power
  shift := h.core.shift
  held := fun hs => absurd h.seq hs

/-- Ending the request, or closing the block first, changes none of it. -/
theorem Parked.answer (h : Parked sg c s) (r : Response) (closed : Bool) :
    Parked sg c ({ s with closed := closed }.answer r) where
  core := ⟨h.core.port, ⟨h.core.phase.sig, h.core.phase.positions, h.core.phase.mode, h.core.phase.power⟩, h.core.cursor,
    h.core.wipers, h.core.shift⟩
  sig := h.sig
  faulted := h.faulted
  seq := rfl
  ctrl := h.ctrl
  idle := h.idle
  selects := h.selects

/-- The block leaves power: Uninitialized, in TimedDelay mode. -/
theorem Parked.leave (h : Parked sg c s) :
    Parked sg .uninitialized (((s.setPowered false).setCtrl .uninitialized).setMode .timedDelay) where
  core := ⟨h.core.port, ⟨h.core.phase.sig, h.core.phase.positions, ⟨nofun, nofun⟩, nofun⟩, h.core.cursor, h.core.wipers,
    h.core.shift⟩
  sig := h.sig
  faulted := h.faulted
  seq := h.seq
  ctrl := rfl
  idle := h.idle
  selects := h.selects

theorem Parked.yields_setDir_control (h : Parked sg c s) (m : Byte) (input : Bool) :
    Yields (Parked sg c) (setDir .control m input s) :=
  transact_yields _ _ h.core.traffic fun _ _ => ⟨h.core.traffic, h.sig, h.faulted, h.seq, h.ctrl, h.idle, h.selects⟩

/-- With the data port an input the lines need not be idle. -/
theorem Parked.yields_dataInput (h : Parked sg c s) : Yields (Parked sg c) (setDir .data 0xFF true s) :=
  transact_yields _ _ h.core.traffic fun _ _ =>
    ⟨h.core.traffic, h.sig, h.faulted, h.seq, h.ctrl, fun hd => absurd ((maskBits_all true _).symm.trans hd) (by decide),
      h.selects⟩

/-- PWR is neither a line nor a select. -/
theorem Parked.yields_power (h : Parked sg c s) (on : Bool) : Yields (Parked sg c) (setSignal sg.pwr on s) := by
  have hsig : sg.wf = true := h.sig ▸ h.core.phase.sig
  have hd := SigMap.wf_disjoint hsig
  obtain ⟨-, -, -, hpwr⟩ := lineMask_disjoint hsig
  have hsel : sg.pwr &&& (sg.ccs ||| sg.bcs) = 0x00#8 := disjoint_or.2 ⟨and_zero_comm hd.ccs_pwr, and_zero_comm hd.bcs_pwr⟩
  exact transact_yields _ _ h.core.traffic fun _ _ =>
    ⟨h.core.traffic, h.sig, h.faulted, h.seq, h.ctrl,
      fun hdata => (maskBits_and_of_disjoint on _ (and_zero_comm hpwr)).trans (h.idle hdata),
      fun hpos => (maskBits_and_of_disjoint on _ hsel).trans (h.selects hpos)⟩

/-- R174: the body of POWER_OFF. -/
theorem leads_powerOffBody (sg : SigMap) (c : Ctrl) :
    Leads (Parked sg c) (powerOffBody sg) (Parked sg .uninitialized) :=
  Leads.cons (fun _ h => (h.yields_setDir_control _ _).plain)
    (Leads.cons (fun _ h => (h.yields_setDir_control _ _).plain)
      (Leads.cons (fun _ h => (h.yields_power false).plain) (leads_of_run (fun _ _ => rfl) fun _ h => h.leave)))

end

section
variable {s : State} (h : Inv s) (hs : s.seq = [])
include h hs

theorem inv_powerOff : Inv (serve false (fun _ => .ok (powerOffBody s.cfg.sig ++ [.respond])) s) := by
  refine inv_serve h hs fun g ms _ ha hms => ?_
  cases hms
  exact leads_powerOffBody _ _ _ [.respond] (h.parked hs (admission_none ha).1) fun t ht => (ht.answer _ t.closed).inv

theorem inv_close : Inv (serve false (fun _ => .ok (closeSteps s.cfg.sig)) s) := by
  refine inv_serve h hs fun g ms _ ha hms => ?_
  cases hms
  have inputs : Leads (Parked s.cfg.sig .uninitialized) [.dir .control 0xFF true, .dir .data 0xFF true]
      (Parked s.cfg.sig .uninitialized) :=
    Leads.cons (fun _ h => (h.yields_setDir_control _ _).plain)
      (Leads.cons (fun _ h => h.yields_dataInput.plain) (Leads.nil fun _ h => h))
  exact leads_powerOffBody _ _ _ _ (h.parked hs (admission_none ha).1) fun t ht =>
    inputs t [.close, .respond] ht fun u hu => (hu.answer _ true).inv

end

end Sys2Proof.Machine
end

section
/-! OBLIGATION. Every step keeps the invariant: a refused form, each of the 18 requests, and a held request that goes on. -/

namespace Sys2Proof.Machine

/-- A request decodes to a request. -/
theorem isRequest_of_noPayload {p : List Byte} {i j : Instr} (hj : j.isRequest = true) (h : noPayload p j = .ok i) :
    i.isRequest = true := by
  cases p with
  | nil =>
    cases h
    exact hj
  | cons _ _ => cases h

/-- The host's coded form decodes to one of the 18 requests (30_encoding.md R92, R94). -/
theorem isRequest_of_decodeRequest {w : BitVec 32} {p : List Byte} {i : Instr} (h : decodeRequest w p = .ok i) :
    i.isRequest = true := by
  unfold decodeRequest at h
  split at h
  · cases h
  · split at h
    case h_6 =>
      cases h
      rfl
    case h_7 =>
      split at h
      · cases h
        rfl
      · cases h
    case h_19 => cases h
    all_goals exact isRequest_of_noPayload rfl h

/-- The outcome of a request given to an idle block. -/
theorem inv_exec_request {i : Instr} {s t : State} (hi : i.isRequest = true) (h : Inv s) (hs : s.seq = [])
    (ht : exec i s = .next t) : Inv t := by
  cases i with
  | powerOn => cases ht; exact inv_powerOn h hs
  | powerOff => cases ht; exact inv_powerOff h hs
  | clear => cases ht; exact inv_homing h hs (by decide)
  | home => cases ht; exact inv_homing h hs (by decide)
  | setCursor col row => cases ht; exact inv_setCursor h hs col row
  | print text => cases ht; exact inv_print h hs text
  | defineGlyph index bitmap => cases ht; exact inv_defineGlyph h hs index bitmap
  | setContrast level => cases ht; exact inv_setWiper h hs .contrast s.contrast level.toNat
  | setBacklight level => cases ht; exact inv_setWiper h hs .backlight s.backlight level.toNat
  | setBlink on => cases ht; exact inv_toggle h hs 0x01 on
  | setCursorVisible on => cases ht; exact inv_toggle h hs 0x02 on
  | setDisplayVisible on => cases ht; exact inv_toggle h hs 0x04 on
  | readRow row => cases ht; exact inv_readRow h hs row
  | close => cases ht; exact inv_close h hs
  | contrastInc => cases ht; exact inv_inc h hs .contrast s.contrast
  | contrastDec => cases ht; exact inv_dec h hs .contrast h.wipers.1
  | backlightInc => cases ht; exact inv_inc h hs .backlight s.backlight
  | backlightDec => cases ht; exact inv_dec h hs .backlight h.wipers.2
  | _ => cases hi

/-- A coded form that decode refuses. -/
theorem inv_reject {e : DecodeError} {s t : State} (h : Inv s) (hs : s.seq = []) (ht : reject e s = .next t) : Inv t := by
  cases e <;> cases ht <;> exact inv_refuse h hs _

/-- Taking the next coded form off the queue. -/
theorem inv_setQueue_tail {s : State} {c : Code} {q : List Code} (h : Inv s) (hq : s.queue = c :: q) : Inv (s.setQueue q) :=
  { h with port := fun x hx => h.port x (by rw [hq]; exact List.mem_cons_of_mem _ hx) }

/-- A held request goes on (70_reset_and_hazards.md R314). -/
theorem inv_resume {s : State} {m : Micro} {ms : List Micro} (h : Inv s) (hs : s.seq = m :: ms) : Inv (resume m ms s) := by
  obtain ⟨hctrl, hf, hc, hset, g, hg, hms⟩ := h.held (by rw [hs]; exact List.cons_ne_nil _ _)
  rw [hs] at hset hms
  have hk : Serves s.phase false false (s.setSeq []) :=
    ⟨h.core.traffic, rfl, rfl, and_or_eq_self.2 (h.selects hf (.inl hctrl)), BitVec.and_zero, nofun⟩
  exact inv_run_serves ⟨hctrl, hg, hc, hf⟩ _ _ false false hk hms hset

/-- What a step does: a held request goes on, nothing happens, or the next coded form is refused or run. -/
theorem step_cases {s t : State} (h : step s = .next t) :
    (∃ m ms, s.seq = m :: ms ∧ t = resume m ms s) ∨
      s.seq = [] ∧ ((s.queue = [] ∧ t = s) ∨ ∃ c q, s.queue = c :: q ∧
        ((∃ e, decode s.cfg.sig c = .error e ∧ reject e (s.setQueue q) = .next t) ∨
          ∃ i, decode s.cfg.sig c = .ok i ∧ exec i (s.setQueue q) = .next t)) := by
  unfold step at h
  cases hs : s.seq with
  | cons m ms =>
    rw [hs] at h
    cases h
    exact .inl ⟨m, ms, rfl, rfl⟩
  | nil =>
    refine .inr ⟨rfl, ?_⟩
    rw [hs, fetch] at h
    cases hq : s.queue with
    | nil =>
      rw [hq] at h
      cases h
      exact .inl ⟨rfl, rfl⟩
    | cons c q =>
      refine .inr ⟨c, q, rfl, ?_⟩
      rw [hq] at h
      dsimp only [State.setQueue_cfg] at h
      cases hd : decode s.cfg.sig c with
      | error e =>
        rw [hd] at h
        exact .inl ⟨e, rfl, h⟩
      | ok i =>
        rw [hd] at h
        exact .inr ⟨i, rfl, h⟩

/-- The host's forms decode to requests, so an instruction run from a queue of requests is a request. -/
theorem isRequest_of_decode {sg : SigMap} {c : Code} {i : Instr} (hc : c.isRequest = true) (h : decode sg c = .ok i) :
    i.isRequest = true := by
  cases c with
  | request w p => exact isRequest_of_decodeRequest h
  | lcd b => cases hc
  | bus control data => cases hc

/-- Settles O13, by the cases of `step`: the invariant holds wherever a fault can end a request (`Core`), and a request that ends
or is held leaves the pins at the levels its steps are known to lead to. -/
theorem stepKeepsInv : Obligations.StepKeepsInv := by
  intro s t h hstep
  rcases step_cases hstep with ⟨m, ms, hs, rfl⟩ | ⟨hs, ⟨-, rfl⟩ | ⟨c, q, hq, hrun⟩⟩
  · exact inv_resume h hs
  · exact h
  · have h' := inv_setQueue_tail h hq
    rcases hrun with ⟨e, -, hr⟩ | ⟨i, hd, hr⟩
    · exact inv_reject h' hs hr
    · exact inv_exec_request (isRequest_of_decode (h.port c (by rw [hq]; exact List.mem_cons_self)) hd) h' hs hr

end Sys2Proof.Machine
end

section
/-! OBLIGATION. Construction (70_reset_and_hazards.md R300, R301) meets the invariant, reset being one; and what an idle step
runs. -/

namespace Sys2Proof.Machine

/-! ## Construction -/

/-- A supported pair has at least one position (20_memory.md R61, R62). -/
theorem geometryOf_positions {p : Params} {c r : Nat} {g : Geometry} (h : geometryOf p c r = some g) :
    0 < g.cols ∧ 0 < g.rows := by
  unfold geometryOf at h
  split at h
  · cases h
  · rename_i base hbase
    cases h
    unfold rowBases at hbase
    split at hbase
    case h_8 => cases hbase
    all_goals exact ⟨Nat.zero_lt_succ _, Nat.zero_lt_succ _⟩

/-- A block just built: nothing requested yet, not powered, the data port an input, the cursor and the wipers at 0. What the
latch read answered, or that it faulted, is no part of the invariant (R301). -/
theorem inv_of_fresh {p : Params} {g : Option Geometry} (v : Byte) (faulted : Bool) (tr : List Event) (hsig : p.sig.wf = true)
    (hg : ∀ x, g = some x → 0 < x.cols ∧ 0 < x.rows) :
    Inv { State.reset with cfg := p, geom := g, shadow := v, faulted := faulted, trace := tr } where
  port := fun _ hc => by cases hc
  sig := hsig
  positions := hg
  cursor := hg
  wipers := ⟨Nat.zero_le _, Nat.zero_le _⟩
  mode := ⟨nofun, nofun⟩
  settled := fun _ h => by cases h
  idle := fun _ _ h => by cases h
  data := fun _ _ h => by cases h
  selects := fun _ h => by
    rcases h with h | h | h
    · cases h
    · exact absurd rfl h
    · exact absurd rfl h
  power := fun h => by cases h
  shift := rfl
  held := fun h => absurd rfl h

/-- Settles O15, by the two cases of R300: no geometry, or a block in the state just built, whatever the latch answered. -/
theorem constructInv : Obligations.ConstructInv := by
  refine ⟨rfl, fun p c r latch hsig => ?_⟩
  unfold construct
  cases hg : geometryOf p c r with
  | none => exact inv_of_fresh _ _ _ hsig fun x hx => by cases hx
  | some g =>
    have hpos : ∀ x, some g = some x → 0 < x.cols ∧ 0 < x.rows := fun x hx => geometryOf_positions (hg.trans hx)
    cases latch with
    | none => exact inv_of_fresh _ _ _ hsig hpos
    | some v => exact inv_of_fresh _ _ _ hsig hpos

/-- Settles O14: reset is a construction with a lawful wiring. -/
theorem resetInv : Obligations.ResetInv := by
  obtain ⟨hreset, hconstruct⟩ := constructInv
  unfold Obligations.ResetInv
  rw [hreset]
  exact hconstruct Config.defaults 16 2 (some 0x00) (by decide)

/-! ## An idle step -/

/-- Settles O5: with nothing held, `step` takes the head of the queue, decodes it and runs it. -/
theorem stepRunsDecoded : Obligations.StepRunsDecoded := by
  intro s c q i hs hq hd _
  have hfetch : fetch s = some (c, s.setQueue q) := by rw [fetch, hq]
  unfold step
  rw [hs, hfetch]
  dsimp only [State.setQueue_cfg]
  rw [hd]
  rfl

end Sys2Proof.Machine
end

section
/-! SUPPORT. Every instruction is one served list of steps: `exec` said once as `serve` of `program`, and the outcomes that
follow. -/

namespace Sys2Proof.Machine

/-- Whether R277 asks for a Ready block: of every request but the lifecycle ones, and of a busy read
(70_reset_and_hazards.md R310). -/
def needsReady : Instr → Bool
  | .busBusyRead => true
  | i => i.isRequest && !i.lifecycle

/-- The steps of an instruction given in the state `s`, or the error of its range check (60_exceptions.md R275). -/
def program (s : State) (i : Instr) (g : Geometry) : Except Status (List Micro) :=
  match i with
  | .powerOn => .ok (powerOnSteps s g)
  | .powerOff => .ok (powerOffBody s.cfg.sig ++ [.respond])
  | .clear => .ok (homingSteps s.cfg.sig .clear)
  | .home => .ok (homingSteps s.cfg.sig .home)
  | .setCursor col row => .ok (setCursorSteps s.cfg.sig g col row)
  | .print text => .ok (printSteps s g text)
  | .defineGlyph index bitmap => glyphSteps s index bitmap g
  | .setContrast level => .ok (setWiper s.cfg.sig .contrast s.contrast level.toNat ++ [.respond])
  | .setBacklight level => .ok (setWiper s.cfg.sig .backlight s.backlight level.toNat ++ [.respond])
  | .setBlink on => .ok (toggleSteps s 0x01 on)
  | .setCursorVisible on => .ok (toggleSteps s 0x02 on)
  | .setDisplayVisible on => .ok (toggleSteps s 0x04 on)
  | .readRow row => readRowSteps s row g
  | .close => .ok (closeSteps s.cfg.sig)
  | .contrastInc => .ok (inc s.cfg.sig .contrast s.contrast ++ [.respond])
  | .contrastDec => .ok (dec s.cfg.sig .contrast s.contrast ++ [.respond])
  | .backlightInc => .ok (inc s.cfg.sig .backlight s.backlight ++ [.respond])
  | .backlightDec => .ok (dec s.cfg.sig .backlight s.backlight ++ [.respond])
  | .hdClear => .ok (command s.cfg.sig .clear 0x00 ++ [.respond])
  | .hdHome => .ok (command s.cfg.sig .home 0x00 ++ [.respond])
  | .hdEntryMode id sh => .ok (command s.cfg.sig .entryMode (entryModeValue id sh) ++ [.respond])
  | .hdDisplayCtrl d c b => .ok (command s.cfg.sig .displayCtrl (displayCtrlValue d c b) ++ [.respond])
  | .hdShift sc rl => .ok (command s.cfg.sig .shift (shiftValue sc rl) ++ [.respond])
  | .hdFunctionSet dl n f => .ok (command s.cfg.sig .functionSet (functionSetValue dl n f) ++ [.respond])
  | .hdSetCgramAddress addr => .ok (command s.cfg.sig .setCgramAddress (addr.setWidth 8) ++ [.respond])
  | .hdSetDdramAddress addr => .ok (command s.cfg.sig .setDdramAddress (addr.setWidth 8) ++ [.respond])
  | .busInstructionWrite data => .ok (instructionCycle s.cfg.sig data ++ [.respond])
  | .busBusyRead => .ok (busyCycle s.cfg.sig ++ [.respond])
  | .busDataWrite data => .ok (writeCycles s.cfg.sig [data] ++ [.respond])
  | .busDataRead => .ok (readCycles s.cfg.sig 1 ++ [.respond])

theorem exec_eq_serve (i : Instr) (s : State) : exec i s = .next (serve (needsReady i) (program s i) s) := by
  cases i <;> rfl

/-- An instruction is refused before its first transaction, or its steps run from the state with a new trace
(60_exceptions.md R277). -/
theorem exec_cases {i : Instr} {s t : State} (h : exec i s = .next t) :
    (∃ e, t = s.refused e) ∨ ∃ g ms, program s i g = .ok ms ∧ t = run ms s.begin := by
  rw [exec_eq_serve] at h
  cases h
  rcases serve_cases (needsReady i) (program s i) s with ⟨e, he⟩ | ⟨g, ms, -, -, hp, hr⟩
  · exact .inl ⟨e, he⟩
  · exact .inr ⟨g, ms, hp, hr⟩

/-- A coded form that decode refuses is refused before its first transaction too (60_exceptions.md R276). -/
theorem reject_eq {e : DecodeError} {s t : State} (h : reject e s = .next t) : t = s.refused .illegalRequest := by
  cases e <;> cases h <;> rfl

/-! ## What holds throughout a busy poll -/

/-- `P` holds of the state that part of a step answers (`st` of what it gives), whether or not it faulted. -/
def Throughout {α : Type} (st : α → State) (P : State → Prop) : Except State α → Prop
  | .error t => P t
  | .ok a => P (st a)

section
variable {P : State → Prop}

theorem Throughout.bind {α β : Type} {st : α → State} {st' : β → State} {r : Except State α} {f : α → Except State β}
    (h : Throughout st P r) (hf : ∀ a, P (st a) → Throughout st' P (f a)) : Throughout st' P (r >>= f) := by
  cases r with
  | error t => exact h
  | ok a => exact hf a h

theorem Throughout.ends_plain {r : Except State State} (h : Throughout id P r) : Ends P (plain r) := by
  cases r <;> exact h

/-- A transaction appends its event, or its marker if it fails, and takes from the fault draw. -/
theorem transact_throughout {st : State → State} {t : Tx} {e : Event} {s : State}
    (hok : ∀ f, P (st ((s.setFaultIn f).emit e))) (hfail : P (s.emit (.fails t))) : Throughout st P (transact t e s) := by
  unfold transact
  split
  · exact hok s.faultIn
  · exact hfail
  · exact hok _

theorem portIn_throughout {s : State} (hok : ∀ f, P ((s.setFaultIn f).emit (.rd (nextInput s))).takeInput)
    (hfail : P (s.emit (.fails .rd))) : Throughout Prod.snd P (portIn s) := by
  have h : Throughout State.takeInput P (transact .rd (.rd (nextInput s)) s) := transact_throughout hok hfail
  unfold portIn
  split <;> rename_i hr <;> rw [hr] at h <;> exact h

/-- A sample keeps the byte read (40_bus_primitives.md R143). -/
theorem ends_sample {s : State} (h : Throughout Prod.snd P (portIn s)) (hpush : ∀ t v, P t → P (t.pushOut v)) :
    Ends P (perform .sample s) := by
  unfold perform
  rcases hr : portIn s with t | ⟨v, t⟩ <;> rw [hr] at h
  · exact h
  · exact hpush t v h

/-- `P` is kept by all that a busy poll does (40_bus_primitives.md R139): RS, RW and EN switched, the data port turned, its
bytes sampled, the deadline marked. -/
structure PollKeeps (P : State → Prop) : Prop where
  line : ∀ {t : State} {m : Byte} (on : Bool), P t → m ∈ [t.cfg.sig.rs, t.cfg.sig.rw, t.cfg.sig.en] →
    Throughout id P (setSignal m on t)
  port : ∀ {t : State} (input : Bool), P t → Throughout id P (setDir .data 0xFF input t)
  sample : ∀ {t : State}, P t → Throughout Prod.snd P (portIn t)
  deadline : ∀ {t : State}, P t → P (t.emit .deadline)

theorem PollKeeps.pollOnce (hP : PollKeeps P) {s : State} (h : P s) : Throughout Prod.snd P (pollOnce s) := by
  refine (hP.line false h (by simp)).bind fun s h => ?_
  refine (hP.line true h (by simp)).bind fun s h => ?_
  refine (hP.port true h).bind fun s h => ?_
  refine (hP.line true h (by simp)).bind fun s h => ?_
  refine (hP.sample h).bind fun r h => ?_
  refine (hP.line false h (by simp)).bind fun s h => ?_
  exact (hP.port false h).bind fun s h => h

theorem PollKeeps.pollTest (hP : PollKeeps P) {n : Nat} {again : State → Except State Done} {v : Byte} {s : State} (h : P s)
    (hagain : Ends P (again s)) : Ends P (pollTest n again v s) := by
  unfold Machine.pollTest
  split
  · split
    · exact hP.deadline h
    · exact hagain
  · exact h

theorem PollKeeps.busyPoll (hP : PollKeeps P) (fuel n : Nat) {s : State} (h : P s) : Ends P (busyPoll fuel n s) := by
  induction fuel generalizing n s with
  | zero =>
    have once := hP.pollOnce h
    rw [Machine.busyPoll]
    rcases hr : Machine.pollOnce s with t | ⟨v, t⟩ <;> rw [hr] at once
    · exact once
    · exact hP.pollTest once once
  | succ fuel ih =>
    have once := hP.pollOnce h
    rw [Machine.busyPoll]
    rcases hr : Machine.pollOnce s with t | ⟨v, t⟩ <;> rw [hr] at once
    · exact once
    · exact hP.pollTest once (ih _ once)

theorem PollKeeps.waitReady (hP : PollKeeps P) {s : State} (h : P s) : Ends P (waitReady s) := by
  unfold Machine.waitReady
  split
  · exact h
  · exact hP.busyPoll _ _ h

end

end Sys2Proof.Machine
end

section
/-! OBLIGATION. What holds of every step, whatever runs: the geometry and the parameters are fixed, `closed` and `faulted` are
never cleared, and the block's copies are the last bytes it wrote. -/

namespace Sys2Proof.Machine

/-! ## What every part of a request keeps -/

/-- `t` comes later in a request than `s`: nothing fixed has changed, nothing sticky is cleared, and the copies are the last
bytes that the events in between write. -/
structure Later (s t : State) : Prop where
  geom : t.geom = s.geom
  cfg : t.cfg = s.cfg
  closed : s.closed = true → t.closed = true
  faulted : s.faulted = true → t.faulted = true
  copies : ∃ new, t.trace = s.trace ++ new ∧ t.shadow = lastControl s.shadow new
    ∧ t.dirControl = lastDir .control s.dirControl new ∧ t.dirData = lastDir .data s.dirData new

/-- A change that appends no event and leaves the pins alone. -/
theorem Later.of_silent {s t : State} (hg : t.geom = s.geom) (hc : t.cfg = s.cfg) (hcl : s.closed = true → t.closed = true)
    (hf : s.faulted = true → t.faulted = true) (htr : t.trace = s.trace) (hsh : t.shadow = s.shadow)
    (hdc : t.dirControl = s.dirControl) (hdd : t.dirData = s.dirData) : Later s t :=
  ⟨hg, hc, hcl, hf, [], by rw [htr, List.append_nil], hsh, hdc, hdd⟩

theorem Later.refl (s : State) : Later s s := .of_silent rfl rfl id id rfl rfl rfl rfl

theorem lastControl_append (v : Byte) (a b : List Event) : lastControl v (a ++ b) = lastControl (lastControl v a) b :=
  List.foldl_append

theorem lastDir_append (p : Port) (v : Byte) (a b : List Event) : lastDir p v (a ++ b) = lastDir p (lastDir p v a) b :=
  List.foldl_append

theorem Later.trans {s t u : State} (h : Later s t) (k : Later t u) : Later s u := by
  obtain ⟨a, htr, hsh, hdc, hdd⟩ := h.copies
  obtain ⟨b, ktr, ksh, kdc, kdd⟩ := k.copies
  refine ⟨k.geom.trans h.geom, k.cfg.trans h.cfg, k.closed ∘ h.closed, k.faulted ∘ h.faulted, a ++ b, ?_, ?_, ?_, ?_⟩
  · rw [ktr, htr, List.append_assoc]
  · rw [ksh, hsh, lastControl_append]
  · rw [kdc, hdc, lastDir_append]
  · rw [kdd, hdd, lastDir_append]

/-! ## Primitives: the copy is written before the port, so it agrees with a failed write too -/

section
variable {s t : State}

theorem Later.setSignal (h : Later s t) (m : Byte) (on : Bool) : Throughout id (Later s) (setSignal m on t) :=
  transact_throughout (fun _ => h.trans ⟨rfl, rfl, id, id, [.wc _], rfl, rfl, rfl, rfl⟩)
    (h.trans ⟨rfl, rfl, id, id, [.fails (.wc _)], rfl, rfl, rfl, rfl⟩)

theorem Later.setDir (h : Later s t) (p : Port) (m : Byte) (input : Bool) : Throughout id (Later s) (setDir p m input t) := by
  cases p with
  | control =>
    exact transact_throughout (fun _ => h.trans ⟨rfl, rfl, id, id, [.dir .control _], rfl, rfl, rfl, rfl⟩)
      (h.trans ⟨rfl, rfl, id, id, [.fails (.dir .control _)], rfl, rfl, rfl, rfl⟩)
  | data =>
    exact transact_throughout (fun _ => h.trans ⟨rfl, rfl, id, id, [.dir .data _], rfl, rfl, rfl, rfl⟩)
      (h.trans ⟨rfl, rfl, id, id, [.fails (.dir .data _)], rfl, rfl, rfl, rfl⟩)

theorem Later.dataOut (h : Later s t) (b : Byte) : Throughout id (Later s) (portOut .data b t) :=
  transact_throughout (fun _ => h.trans ⟨rfl, rfl, id, id, [.wd _], rfl, rfl, rfl, rfl⟩)
    (h.trans ⟨rfl, rfl, id, id, [.fails (.wd _)], rfl, rfl, rfl, rfl⟩)

theorem Later.portIn (h : Later s t) : Throughout Prod.snd (Later s) (portIn t) :=
  portIn_throughout (fun _ => h.trans ⟨rfl, rfl, id, id, [.rd _], rfl, rfl, rfl, rfl⟩)
    (h.trans ⟨rfl, rfl, id, id, [.fails .rd], rfl, rfl, rfl, rfl⟩)

theorem later_pollKeeps (s : State) : PollKeeps (Later s) where
  line on h _ := h.setSignal _ on
  port input h := h.setDir .data 0xFF input
  sample h := h.portIn
  deadline h := h.trans ⟨rfl, rfl, id, id, [.deadline], rfl, rfl, rfl, rfl⟩

theorem Later.perform (h : Later s t) (m : Micro) : Ends (Later s) (perform m t) := by
  cases m with
  | signal m on => exact (h.setSignal m on).ends_plain
  | dir p m input => exact (h.setDir p m input).ends_plain
  | dataOut b => exact (h.dataOut b).ends_plain
  | sample => exact ends_sample h.portIn fun _ _ hu => hu.trans (.of_silent rfl rfl id id rfl rfl rfl rfl)
  | wait => exact (later_pollKeeps s).waitReady h
  | poll n => exact (later_pollKeeps s).busyPoll _ n h
  | delay d => exact h.trans ⟨rfl, rfl, id, id, [.dly d], rfl, rfl, rfl, rfl⟩
  | pos k p => cases k <;> exact h.trans (.of_silent rfl rfl id id rfl rfl rfl rfl)
  | close => exact h.trans (.of_silent rfl rfl (fun _ => rfl) id rfl rfl rfl rfl)
  | _ => exact h.trans (.of_silent rfl rfl id id rfl rfl rfl rfl)

end

/-- A run of any steps, however it ends. -/
theorem later_run (ms : List Micro) (s : State) : Later s (run ms s) :=
  run_keeps ms s (.refl s) (fun m _ _ h => h.perform m)
    (fun _ h => h.trans (.of_silent rfl rfl id (fun _ => rfl) rfl rfl rfl rfl))
    (fun _ _ h => h.trans (.of_silent rfl rfl id id rfl rfl rfl rfl))

/-- A held request that goes on. -/
theorem later_resume (m : Micro) (ms : List Micro) (s : State) : Later s (resume m ms s) :=
  (Later.of_silent rfl rfl id id rfl rfl rfl rfl : Later s (s.setSeq [])).trans (later_run (m :: ms) (s.setSeq []))

/-- An instruction, from the state with the new trace. -/
theorem later_exec {i : Instr} {s t : State} (h : exec i s = .next t) : Later s.begin t := by
  rcases exec_cases h with ⟨e, rfl⟩ | ⟨g, ms, -, rfl⟩
  · exact .of_silent rfl rfl id id rfl rfl rfl rfl
  · exact later_run ms _

/-! ## The obligations -/

/-- Settles O18, by the cases of `step`: each is a run, a refusal or nothing, and every part of a run keeps what is fixed and
what is sticky. -/
theorem stickyState : Obligations.StickyState := by
  intro s t hstep
  rcases step_cases hstep with ⟨m, ms, -, rfl⟩ | ⟨-, ⟨-, rfl⟩ | ⟨c, q, -, ⟨e, -, hr⟩ | ⟨i, -, hr⟩⟩⟩
  · obtain ⟨hg, hc, hcl, hf, -⟩ := later_resume m ms s
    exact ⟨hg, hc, hcl, hf⟩
  · exact ⟨rfl, rfl, id, id⟩
  · rw [reject_eq hr]
    exact ⟨rfl, rfl, id, id⟩
  · obtain ⟨hg, hc, hcl, hf, -⟩ := later_exec hr
    exact ⟨hg, hc, hcl, hf⟩

/-- Settles O19: every step of the pseudocode keeps the copies equal to the last bytes written, from the empty trace of a new
request and from the trace a held one has. -/
theorem copiesAreLastWrites : Obligations.CopiesAreLastWrites := by
  constructor
  · intro i s t h
    obtain ⟨new, htr, hcopies⟩ := (later_exec h).copies
    rw [State.begin_trace, List.nil_append] at htr
    rw [htr]
    exact hcopies
  · intro s t hs hstep
    rcases step_cases hstep with ⟨m, ms, -, rfl⟩ | ⟨hidle, -⟩
    · exact (later_resume m ms s).copies
    · exact absurd hidle hs

end Sys2Proof.Machine
end

section
/-! SUPPORT. What a list of steps may write, by 10_state.md R39's columns: the footprint of each instruction, and the frame it
leaves. -/

namespace Sys2Proof.Machine

/-! ## Masks -/

/-- A part of `S` shares no bit with what `S` shares none with. -/
theorem disjoint_of_part {m S k : Byte} (hm : m &&& ~~~S = 0x00#8) (hk : S &&& k = 0x00#8) : m &&& k = 0x00#8 := by
  have hkS : k &&& ~~~S = k := clear_of_disjoint (by rw [BitVec.and_comm, hk])
  rw [← hkS, BitVec.and_comm k, ← BitVec.and_assoc, hm, BitVec.zero_and]

/-- Bytes that agree outside `S` agree on what shares no bit with `S`. -/
theorem and_eq_of_disjoint {v w S k : Byte} (h : v &&& ~~~S = w &&& ~~~S) (hk : S &&& k = 0x00#8) : v &&& k = w &&& k := by
  have hkS : ~~~S &&& k = k := by rw [BitVec.and_comm]; exact clear_of_disjoint (by rw [BitVec.and_comm, hk])
  rw [← hkS, ← BitVec.and_assoc, h, BitVec.and_assoc]

/-- The bus lines share no bit with `k` when none of the three does. -/
theorem lineMask_and_eq_zero {sg : SigMap} {k : Byte} :
    lineMask sg &&& k = 0x00#8 ↔ sg.rs &&& k = 0x00#8 ∧ sg.rw &&& k = 0x00#8 ∧ sg.en &&& k = 0x00#8 := by
  rw [lineMask, or_disjoint, or_disjoint, and_assoc]

/-! ## Footprints -/

/-- What a list of steps may write of the block's state: the signals of the control byte, the directions, the commandShadow
slots, the cursor, the tracked positions, the modes and `closed`. -/
structure Footprint where
  signals : Byte
  controlPort : Bool
  dataPort : Bool
  slots : List LcdOp
  cursor : Bool
  wipers : List Pot
  modes : Bool
  closes : Bool

/-- The footprint R39 gives an instruction, with R24 for its signals. -/
def footprint (sg : SigMap) (i : Instr) : Footprint :=
  { signals := signals sg i
    controlPort := i.lifecycle
    dataPort := !keepsDataPort i
    slots := i.slots
    cursor := i.movesCursor
    wipers := wipers i
    modes := i.lifecycle
    closes := decide (i = .close) }

/-- The footprint holds what bus transfers write: RS, RW and EN, and the data port's direction. -/
structure Footprint.Transfers (fp : Footprint) (sg : SigMap) : Prop where
  lines : lineMask sg &&& ~~~fp.signals = 0x00#8
  port : fp.dataPort = true

/-- The footprint holds what the requests of potentiometer `k` write. -/
structure Footprint.Pulses (fp : Footprint) (sg : SigMap) (k : Pot) : Prop where
  select : selectMask sg k &&& ~~~fp.signals = 0x00#8
  ud : sg.ud &&& ~~~fp.signals = 0x00#8
  wiper : k ∈ fp.wipers

/-- The step writes nothing outside the footprint. -/
def Micro.within (sg : SigMap) (fp : Footprint) : Micro → Prop
  | .signal m _ => m &&& ~~~fp.signals = 0x00#8
  | .dir .control _ _ => fp.controlPort = true
  | .dir .data _ _ => fp.dataPort = true
  | .dataOut _ => True
  | .sample => True
  | .wait => fp.Transfers sg
  | .poll _ => fp.Transfers sg
  | .delay _ => True
  | .record op _ => op ∈ fp.slots
  | .cursor _ _ => fp.cursor = true
  | .pos k _ => k ∈ fp.wipers
  | .mode _ => fp.modes = true
  | .ctrl _ => fp.modes = true
  | .powered _ => fp.modes = true
  | .close => fp.closes = true
  | .respond => True

/-- No step of the list writes anything outside the footprint. -/
def Within (sg : SigMap) (fp : Footprint) (ms : List Micro) : Prop := ∀ m ∈ ms, m.within sg fp

section
variable {sg : SigMap} {fp : Footprint}

theorem Within.nil : Within sg fp [] := fun _ hm => by cases hm

theorem Within.cons {m : Micro} {ms : List Micro} (hm : m.within sg fp) (h : Within sg fp ms) : Within sg fp (m :: ms) :=
  List.forall_mem_cons.2 ⟨hm, h⟩

theorem Within.append {a b : List Micro} (ha : Within sg fp a) (hb : Within sg fp b) : Within sg fp (a ++ b) :=
  List.forall_mem_append.2 ⟨ha, hb⟩

theorem Within.flatMap {α : Type} {f : α → List Micro} (hf : ∀ x, Within sg fp (f x)) (l : List α) :
    Within sg fp (l.flatMap f) := List.forall_mem_flatMap.2 fun x _ => hf x

theorem Within.respond : Within sg fp [.respond] := .cons trivial .nil

theorem Within.replicate {ms : List Micro} (h : Within sg fp ms) (n : Nat) : Within sg fp (List.replicate n ms).flatten := by
  intro m hm
  obtain ⟨l, hl, hml⟩ := List.mem_flatten.1 hm
  exact h m (List.eq_of_mem_replicate hl ▸ hml)

/-! ### Transfers (40_bus_primitives.md section 4) -/

section
variable (h : fp.Transfers sg)
include h

theorem within_instructionCycle (b : Byte) : Within sg fp (instructionCycle sg b) := by
  obtain ⟨hrs, hrw, hen⟩ := lineMask_and_eq_zero.1 h.lines
  exact .cons (or_disjoint.2 ⟨hrs, hrw⟩) (.cons hen (.cons trivial (.cons h.lines .nil)))

theorem within_command {op : LcdOp} (hop : op ∈ fp.slots) (v : Byte) : Within sg fp (command sg op v) :=
  .cons h ((within_instructionCycle h _).append (.cons hop .nil))

theorem within_writeCycles (bs : List Byte) : Within sg fp (writeCycles sg bs) := by
  obtain ⟨hrs, hrw, hen⟩ := lineMask_and_eq_zero.1 h.lines
  have byte : ∀ b, Within sg fp (blockByte sg b) := fun _ => .cons hen (.cons trivial (.cons hen .nil))
  exact .append (.append (.cons hrw (.cons hrs .nil)) (.flatMap byte bs)) (.cons h.lines .nil)

theorem within_writeBlock (bs : List Byte) : Within sg fp (writeBlock sg bs) := by
  cases bs with
  | nil => exact .nil
  | cons b bs => exact .cons h (within_writeCycles h _)

theorem within_readCycles (n : Nat) : Within sg fp (readCycles sg n) := by
  obtain ⟨hrs, hrw, hen⟩ := lineMask_and_eq_zero.1 h.lines
  have byte : Within sg fp (readByte sg) := .cons hen (.cons trivial (.cons hen .nil))
  exact .append (.append (.cons hrs (.cons hrw (.cons h.port .nil))) (byte.replicate n)) (.cons h.port (.cons h.lines .nil))

theorem within_readBlock (n : Nat) : Within sg fp (readBlock sg n) := by
  cases n with
  | zero => exact .nil
  | succ n => exact .cons h (within_readCycles h _)

theorem within_busyCycle : Within sg fp (busyCycle sg) := by
  obtain ⟨hrs, hrw, hen⟩ := lineMask_and_eq_zero.1 h.lines
  exact .cons hrs (.cons hrw (.cons h.port (.cons hen (.cons trivial (.cons hen (.cons h.port .nil))))))

theorem within_transferSteps (hop : LcdOp.setDdramAddress ∈ fp.slots) (g : Geometry) (t : Transfer) :
    Within sg fp (transferSteps sg g t) := by
  cases t with
  | address c r => exact within_command h hop _
  | block bs => exact within_writeBlock h bs

end

/-! ### Potentiometers (43_potentiometer.md) -/

section
variable {k : Pot} (h : fp.Pulses sg k)
include h

theorem within_stepPulse (up : Bool) : Within sg fp (stepPulse sg k up) := .cons h.ud (.cons h.select (.cons h.select .nil))

theorem within_inc (p : Nat) : Within sg fp (inc sg k p) := (within_stepPulse h true).append (.cons h.wiper .nil)

theorem within_dec (p : Nat) : Within sg fp (dec sg k p) := (within_stepPulse h false).append (.cons h.wiper .nil)

theorem within_burst (d : Bool) (n : Nat) : Within sg fp (burst sg k d n) := by
  have pulse : Within sg fp (burstPulse sg d) := .cons h.ud (.cons h.ud .nil)
  exact .append (.append (.cons h.ud (.cons h.select .nil)) (pulse.replicate n)) (.cons h.select .nil)

theorem within_setWiper (p target : Nat) : Within sg fp (setWiper sg k p target) := by
  unfold setWiper
  dsimp only
  split
  · exact .nil
  · exact (within_burst h _ _).append (.cons h.wiper .nil)

theorem within_potPowerOn (hport : fp.controlPort = true) (p : Nat) : Within sg fp (potPowerOn sg k p) :=
  .append (.cons hport (.cons h.select .nil)) (within_setWiper h p 0)

end

/-! ### Power (41_lcd_control.md R170 to R175) -/

theorem within_initProtocol {p : Params} (h : fp.Transfers p.sig) (hm : fp.modes = true) (hc : fp.cursor = true)
    (hs : ∀ op ∈ Instr.slots .powerOn, op ∈ fp.slots) (g : Geometry) : Within p.sig fp (initProtocol p g) := by
  have send : ∀ {op} (v : Byte) (t : TimeParam), op ∈ Instr.slots .powerOn → Within p.sig fp (initCommand p.sig op v t) :=
    fun v t hop => (within_command h (hs _ hop) v).append (.cons trivial .nil)
  have hslots : LcdOp.functionSet ∈ Instr.slots .powerOn ∧ LcdOp.displayCtrl ∈ Instr.slots .powerOn ∧
      LcdOp.clear ∈ Instr.slots .powerOn ∧ LcdOp.entryMode ∈ Instr.slots .powerOn := by decide
  obtain ⟨hf, hd, hcl, he⟩ := hslots
  have start : Within p.sig fp [.ctrl .initializing, .mode .timedDelay] := .cons hm (.cons hm .nil)
  exact ((((((((start.append (send _ _ hf)).append (send _ _ hf)).append (send _ _ hf)).append (send _ _ hd)).append
    (send _ _ hcl)).append (send _ _ he)).append (send _ _ hd)).append (.cons hc (.cons hm (.cons hm .nil))))

theorem within_powerOffBody (hport : fp.controlPort = true) (hpwr : sg.pwr &&& ~~~fp.signals = 0x00#8) (hm : fp.modes = true) :
    Within sg fp (powerOffBody sg) :=
  .append (.append (.cons hport .nil) (.cons hport .nil)) (.cons hpwr (.cons hm (.cons hm (.cons hm .nil))))

end

/-! ## The steps of an instruction stay within its footprint -/

/-- An instruction that drives RS, RW and EN and turns the data port. -/
theorem footprint_transfers {sg : SigMap} {i : Instr} (hs : signals sg i = lineMask sg) (hd : keepsDataPort i = false) :
    (footprint sg i).Transfers sg :=
  ⟨by rw [show (footprint sg i).signals = lineMask sg from hs]; exact BitVec.and_not_self _,
    show (!keepsDataPort i) = true by rw [hd]; rfl⟩

/-- A request of potentiometer `k`. -/
theorem footprint_pulses {sg : SigMap} {i : Instr} {k : Pot} (hs : signals sg i = selectMask sg k ||| sg.ud)
    (hw : wipers i = [k]) :
    (footprint sg i).Pulses sg k := by
  have hself : (selectMask sg k ||| sg.ud) &&& ~~~(footprint sg i).signals = 0x00#8 := by
    rw [show (footprint sg i).signals = selectMask sg k ||| sg.ud from hs]
    exact BitVec.and_not_self _
  rw [or_disjoint] at hself
  obtain ⟨hselect, hud⟩ := hself
  exact ⟨hselect, hud, show k ∈ wipers i by rw [hw]; exact List.mem_cons_self⟩

theorem within_powerOnSteps (s : State) (g : Geometry) :
    Within s.cfg.sig (footprint s.cfg.sig .powerOn) (powerOnSteps s g) := by
  have hself : signals s.cfg.sig .powerOn &&& ~~~(footprint s.cfg.sig .powerOn).signals = 0x00#8 := BitVec.and_not_self _
  simp only [signals, or_disjoint] at hself
  obtain ⟨⟨⟨⟨hlines, hccs⟩, hbcs⟩, hud⟩, hpwr⟩ := hself
  have ht : (footprint s.cfg.sig .powerOn).Transfers s.cfg.sig := ⟨hlines, rfl⟩
  have hpulse : ∀ k, (footprint s.cfg.sig .powerOn).Pulses s.cfg.sig k
    | .contrast => ⟨hccs, hud, List.mem_cons_self⟩
    | .backlight => ⟨hbcs, hud, List.mem_cons_of_mem _ List.mem_cons_self⟩
  have hports : Within s.cfg.sig (footprint s.cfg.sig .powerOn) (lcdPortsOut s.cfg.sig) := .cons rfl (.cons rfl .nil)
  have hpower : Within s.cfg.sig (footprint s.cfg.sig .powerOn) [.signal s.cfg.sig.pwr true, .powered true] :=
    .cons hpwr (.cons rfl .nil)
  exact ((((hports.append (within_potPowerOn (hpulse .contrast) rfl _)).append
    (within_potPowerOn (hpulse .backlight) rfl _)).append hpower).append
    (within_initProtocol ht rfl rfl (fun _ h => h) g)).append .respond

theorem within_program {s : State} {i : Instr} {g : Geometry} {ms : List Micro} (h : program s i g = .ok ms) :
    Within s.cfg.sig (footprint s.cfg.sig i) ms := by
  have sends : ∀ {op v}, i.slots = [op] → signals s.cfg.sig i = lineMask s.cfg.sig → keepsDataPort i = false →
      Within s.cfg.sig (footprint s.cfg.sig i) (command s.cfg.sig op v) := fun hslots hs hd =>
    within_command (footprint_transfers hs hd) (show _ ∈ i.slots by rw [hslots]; exact List.mem_cons_self) _
  cases i with
  | powerOn => cases h; exact within_powerOnSteps s g
  | powerOff => cases h; exact (within_powerOffBody rfl (BitVec.and_not_self _) rfl).append .respond
  | clear => cases h; exact (sends rfl rfl rfl).append (.cons rfl .respond)
  | home => cases h; exact (sends rfl rfl rfl).append (.cons rfl .respond)
  | setCursor col row => cases h; exact (sends rfl rfl rfl).append (.cons rfl .respond)
  | print text =>
    cases h
    exact (Within.flatMap (within_transferSteps (footprint_transfers rfl rfl) (List.mem_cons_self) g) _).append
      (.cons rfl .respond)
  | defineGlyph index bitmap =>
    have ht : (footprint s.cfg.sig (.defineGlyph index bitmap)).Transfers s.cfg.sig := footprint_transfers rfl rfl
    simp only [program, glyphSteps] at h
    split at h
    · cases h
    · cases h
      exact (((within_command ht List.mem_cons_self _).append (within_writeBlock ht _)).append
        (within_command ht (List.mem_cons_of_mem _ List.mem_cons_self) _)).append .respond
  | readRow row =>
    have ht : (footprint s.cfg.sig (.readRow row)).Transfers s.cfg.sig := footprint_transfers rfl rfl
    simp only [program, readRowSteps] at h
    split at h
    · cases h
    · cases h
      exact (((within_command ht List.mem_cons_self _).append (within_readBlock ht _)).append
        (within_command ht List.mem_cons_self _)).append .respond
  | setContrast level => cases h; exact (within_setWiper (footprint_pulses rfl rfl) _ _).append .respond
  | setBacklight level => cases h; exact (within_setWiper (footprint_pulses rfl rfl) _ _).append .respond
  | contrastInc => cases h; exact (within_inc (footprint_pulses rfl rfl) _).append .respond
  | contrastDec => cases h; exact (within_dec (footprint_pulses rfl rfl) _).append .respond
  | backlightInc => cases h; exact (within_inc (footprint_pulses rfl rfl) _).append .respond
  | backlightDec => cases h; exact (within_dec (footprint_pulses rfl rfl) _).append .respond
  | close =>
    cases h
    exact (within_powerOffBody rfl (BitVec.and_not_self _) rfl).append (.cons rfl (.cons rfl (.cons rfl .respond)))
  | busInstructionWrite data => cases h; exact (within_instructionCycle (footprint_transfers rfl rfl) _).append .respond
  | busBusyRead => cases h; exact (within_busyCycle (footprint_transfers rfl rfl)).append .respond
  | busDataWrite data => cases h; exact (within_writeCycles (footprint_transfers rfl rfl) _).append .respond
  | busDataRead => cases h; exact (within_readCycles (footprint_transfers rfl rfl) 1).append .respond
  | _ => cases h; exact (sends rfl rfl rfl).append .respond

/-! ## The frame a footprint leaves -/

/-- `t` is `s` in every field of the block's state that the footprint does not name. -/
structure Framed (fp : Footprint) (s t : State) : Prop where
  queue : t.queue = s.queue
  geom : t.geom = s.geom
  cfg : t.cfg = s.cfg
  signals : t.shadow &&& ~~~fp.signals = s.shadow &&& ~~~fp.signals
  controlPort : fp.controlPort = false → t.dirControl = s.dirControl
  dataPort : fp.dataPort = false → t.dirData = s.dirData
  slots : ∀ op, op ∉ fp.slots → t.cs.get op = s.cs.get op
  cursor : fp.cursor = false → t.col = s.col ∧ t.row = s.row
  contrast : .contrast ∉ fp.wipers → t.contrast = s.contrast
  backlight : .backlight ∉ fp.wipers → t.backlight = s.backlight
  modes : fp.modes = false → t.waitMode = s.waitMode ∧ t.ctrl = s.ctrl ∧ t.powered = s.powered
  closes : fp.closes = false → t.closed = s.closed

/-- A flag that is set is not clear. -/
theorem flag_absurd {b : Bool} {p : Prop} (ht : b = true) (hf : b = false) : p := Bool.noConfusion (ht.symm.trans hf)

section
variable {fp : Footprint} {s t : State}

theorem Framed.refl (fp : Footprint) (s : State) : Framed fp s s :=
  ⟨rfl, rfl, rfl, rfl, fun _ => rfl, fun _ => rfl, fun _ _ => rfl, fun _ => ⟨rfl, rfl⟩, fun _ => rfl, fun _ => rfl,
    fun _ => ⟨rfl, rfl, rfl⟩, fun _ => rfl⟩

/-- The frame says nothing of the request's progress, the observation, the environment or `faulted`. -/
theorem Framed.unobserved (h : Framed fp s t) {f : Bool} {ms : List Micro} {out ins : List Byte} {r : Option Response}
    {tr : List Event} {n : Nat} {d : Option Nat} :
    Framed fp s { t with faulted := f, seq := ms, out := out, response := r, trace := tr, inputs := ins, reads := n,
                         faultIn := d } :=
  { h with }

theorem Framed.setSignal (h : Framed fp s t) {m : Byte} (hm : m &&& ~~~fp.signals = 0x00#8) (on : Bool) :
    Throughout id (Framed fp s) (setSignal m on t) := by
  have hw : Framed fp s (t.setShadow (maskBits m on t.shadow)) :=
    { h with signals := (maskBits_and_of_disjoint on _ hm).trans h.signals }
  exact transact_throughout (fun _ => hw.unobserved) hw.unobserved

theorem Framed.setDir (h : Framed fp s t) {p : Port} {m : Byte} {input : Bool} (hp : (Micro.dir p m input).within t.cfg.sig fp) :
    Throughout id (Framed fp s) (setDir p m input t) := by
  have hw : Framed fp s (t.setDirOf p (maskBits m input (t.dirOf p))) := by
    cases p with
    | control => exact { h with controlPort := flag_absurd hp }
    | data => exact { h with dataPort := flag_absurd hp }
  exact transact_throughout (fun _ => hw.unobserved) hw.unobserved

theorem Framed.portIn (h : Framed fp s t) : Throughout Prod.snd (Framed fp s) (portIn t) :=
  portIn_throughout (fun _ => h.unobserved) h.unobserved

theorem framed_pollKeeps (h : fp.Transfers s.cfg.sig) : PollKeeps (Framed fp s) where
  line on ht hm := by
    obtain ⟨hrs, hrw, hen⟩ := lineMask_and_eq_zero.1 h.lines
    rw [ht.cfg, List.mem_cons, List.mem_cons, List.mem_singleton] at hm
    rcases hm with rfl | rfl | rfl
    · exact ht.setSignal hrs on
    · exact ht.setSignal hrw on
    · exact ht.setSignal hen on
  port _ ht := ht.setDir h.port
  sample ht := ht.portIn
  deadline ht := ht.unobserved

theorem Framed.perform (h : Framed fp s t) {m : Micro} (hm : m.within s.cfg.sig fp) : Ends (Framed fp s) (perform m t) := by
  cases m with
  | signal m on => exact (h.setSignal hm on).ends_plain
  | dir p m input => exact (h.setDir (by cases p <;> exact hm)).ends_plain
  | dataOut b => exact Throughout.ends_plain (transact_throughout (fun _ => h.unobserved) h.unobserved)
  | sample => exact ends_sample h.portIn fun _ _ hu => hu.unobserved
  | wait => exact (framed_pollKeeps hm).waitReady h
  | poll n => exact (framed_pollKeeps hm).busyPoll _ n h
  | delay d => exact h.unobserved
  | record op v =>
    have slot : ∀ op', op' ∉ fp.slots → (t.record op v).cs.get op' = s.cs.get op' := fun op' hop' =>
      (perOp_get_set_other _ v (ne_of_mem_of_not_mem hm hop').symm).trans (h.slots op' hop')
    exact { h with slots := slot }
  | cursor c r => exact { h with cursor := flag_absurd hm }
  | pos k p =>
    cases k with
    | contrast => exact { h with contrast := fun hk => absurd hm hk }
    | backlight => exact { h with backlight := fun hk => absurd hm hk }
  | mode w => exact { h with modes := flag_absurd hm }
  | ctrl c => exact { h with modes := flag_absurd hm }
  | powered b => exact { h with modes := flag_absurd hm }
  | close => exact { h with closes := flag_absurd hm }
  | respond => exact h.unobserved

theorem Framed.run (h : Framed fp s t) {ms : List Micro} (hms : Within s.cfg.sig fp ms) : Framed fp s (run ms t) :=
  run_keeps ms t h (fun m hm _ hu => hu.perform (hms m hm)) (fun _ hu => hu.unobserved) (fun _ _ hu => hu.unobserved)

end

/-- Every instruction leaves what its footprint does not name. -/
theorem framed_exec {i : Instr} {s t : State} (h : exec i s = .next t) : Framed (footprint s.cfg.sig i) s t := by
  rcases exec_cases h with ⟨e, rfl⟩ | ⟨g, ms, hp, rfl⟩
  · exact (Framed.refl _ s).unobserved
  · exact Framed.run (Framed.refl _ s).unobserved (within_program hp)

end Sys2Proof.Machine
end

section
/-! OBLIGATION. The frames of 10_state.md R39, column by column, and the IRS bit, which no instruction's footprint holds. -/

namespace Sys2Proof.Machine

/-- Settles O24: the columns cs and col,row of the frame. -/
theorem frameShadowsAndCursor : Obligations.FrameShadowsAndCursor := by
  intro i s t h
  have hframe := framed_exec h
  exact ⟨hframe.slots, hframe.cursor⟩

/-- Settles O25: the columns waitMode, ctrl, powered, closed and pot pos of the frame. -/
theorem frameModesAndWipers : Obligations.FrameModesAndWipers := by
  intro i s t h
  have hframe := framed_exec h
  refine ⟨hframe.modes, fun hi => hframe.closes (decide_eq_false hi), fun k hk => ?_⟩
  cases k with
  | contrast => exact hframe.contrast hk
  | backlight => exact hframe.backlight hk

/-- Settles O26: the columns shadow and dir of the frame, with what no instruction writes. -/
theorem framePins : Obligations.FramePins := by
  intro i s t h
  have hframe := framed_exec h
  refine ⟨hframe.signals, hframe.controlPort, fun hk => hframe.dataPort ?_, hframe.queue, hframe.geom, hframe.cfg⟩
  show (!keepsDataPort i) = false
  rw [hk]
  rfl

/-! ## The IRS bit (10_state.md R25) -/

/-- No instruction drives IRS. -/
theorem signals_disjoint_irs {sg : SigMap} (h : sg.wf = true) (i : Instr) : signals sg i &&& sg.irs = 0x00#8 := by
  have d := SigMap.wf_disjoint h
  have lines : lineMask sg &&& sg.irs = 0x00#8 := or_disjoint.2 ⟨or_disjoint.2 ⟨d.rs_irs, d.rw_irs⟩, d.en_irs⟩
  have contrast : (sg.ccs ||| sg.ud) &&& sg.irs = 0x00#8 := or_disjoint.2 ⟨and_zero_comm d.irs_ccs, and_zero_comm d.irs_ud⟩
  have backlight : (sg.bcs ||| sg.ud) &&& sg.irs = 0x00#8 := or_disjoint.2 ⟨and_zero_comm d.irs_bcs, and_zero_comm d.irs_ud⟩
  cases i with
  | powerOn =>
    simp only [signals, or_disjoint]
    exact ⟨⟨⟨⟨lines, and_zero_comm d.irs_ccs⟩, and_zero_comm d.irs_bcs⟩, and_zero_comm d.irs_ud⟩,
      and_zero_comm d.irs_pwr⟩
  | powerOff => exact and_zero_comm d.irs_pwr
  | close => exact and_zero_comm d.irs_pwr
  | setContrast _ => exact contrast
  | contrastInc => exact contrast
  | contrastDec => exact contrast
  | setBacklight _ => exact backlight
  | backlightInc => exact backlight
  | backlightDec => exact backlight
  | _ => exact lines

/-- What the steps of a held request may write (70_reset_and_hazards.md R314): no mode, no wiper, no direction of the control
port, and every signal but IRS. -/
def heldFootprint (sg : SigMap) : Footprint :=
  { signals := ~~~sg.irs
    controlPort := false
    dataPort := true
    slots := [.clear, .home, .entryMode, .displayCtrl, .functionSet, .setCgramAddress, .setDdramAddress]
    cursor := true
    wipers := []
    modes := false
    closes := false }

theorem within_of_mayBeHeld {sg : SigMap} {g : Geometry} {m : Micro} (h : sg.wf = true) (hm : m.mayBeHeld sg g) :
    m.within sg (heldFootprint sg) := by
  have lines : (heldFootprint sg).Transfers sg :=
    ⟨by rw [heldFootprint, BitVec.not_not]; exact signals_disjoint_irs h .clear, rfl⟩
  cases m with
  | signal m on => rw [Micro.within, heldFootprint, BitVec.not_not]; exact hm.1
  | dir p m input =>
    obtain ⟨rfl, -⟩ := hm
    exact lines.port
  | wait => exact lines
  | poll n => exact lines
  | record op v =>
    show op ∈ [LcdOp.clear, .home, .entryMode, .displayCtrl, .functionSet, .setCgramAddress, .setDdramAddress]
    revert hm
    cases op <;> simp [Micro.mayBeHeld]
  | cursor c r => rfl
  | dataOut b => trivial
  | sample => trivial
  | delay t => trivial
  | respond => trivial
  | _ => exact hm.elim

/-- Settles O16: by its footprint an instruction leaves IRS alone, and so do the steps that may stand in a held request. -/
theorem irsNeverChanges : Obligations.IrsNeverChanges := by
  have instr : ∀ {i : Instr} {s t : State}, s.cfg.sig.wf = true → exec i s = .next t →
      t.shadow &&& s.cfg.sig.irs = s.shadow &&& s.cfg.sig.irs := fun hsig h =>
    and_eq_of_disjoint (framed_exec h).signals (signals_disjoint_irs hsig _)
  refine ⟨fun i s t => instr, fun s t hinv hstep => ?_⟩
  rcases step_cases hstep with ⟨m, ms, hs, rfl⟩ | ⟨-, ⟨-, rfl⟩ | ⟨c, q, -, ⟨e, -, hr⟩ | ⟨i, -, hr⟩⟩⟩
  · obtain ⟨-, -, -, -, g, -, hheld⟩ := hinv.held (by rw [hs]; exact List.cons_ne_nil _ _)
    rw [hs] at hheld
    have hframe : Framed (heldFootprint s.cfg.sig) s (resume m ms s) :=
      (Framed.refl _ s).unobserved.run fun x hx => within_of_mayBeHeld hinv.sig (hheld x hx)
    exact and_eq_of_disjoint hframe.signals (by rw [BitVec.and_comm]; exact BitVec.and_not_self _)
  · rfl
  · rw [reject_eq hr]
    rfl
  · exact instr (s := s.setQueue q) hinv.sig hr

end Sys2Proof.Machine
end

section
/-! OBLIGATION. The IRS bit has no effect (10_state.md R25): two runs from control bytes that differ in a bit no step drives go
side by side, their control bytes differing in that bit throughout. -/

namespace Sys2Proof.Machine

/-! ## The same block with bits of the control byte flipped -/

/-- The event with the bits of `k` flipped in the control byte it writes, or attempts to. -/
def Event.flip (k : Byte) : Event → Event
  | .wc v => .wc (v ^^^ k)
  | .fails (.wc v) => .fails (.wc (v ^^^ k))
  | e => e

/-- The state with the bits of `k` flipped in the shadow byte and in every control byte of the trace. -/
def State.flip (k : Byte) (s : State) : State := { s with shadow := s.shadow ^^^ k, trace := s.trace.map (Event.flip k) }

/-- `s'` is `s` with the bits of `k` flipped, and the bus lines are none of them. -/
structure Twin (k : Byte) (s s' : State) : Prop where
  lines : lineMask s.cfg.sig &&& k = 0x00#8
  eq : s' = s.flip k

/-- What two parts of a step answer from twins: both a fault, or results related by `R`. -/
def Twins {α : Type} (k : Byte) (R : α → α → Prop) : Except State α → Except State α → Prop
  | .error s, .error s' => Twin k s s'
  | .ok a, .ok a' => R a a'
  | _, _ => False

/-- Two ends of a step: both done, or both held at the same point. -/
inductive TwinDone (k : Byte) : Done → Done → Prop where
  | done {s s' : State} (h : Twin k s s') : TwinDone k (.done s) (.done s')
  | hold {s s' : State} (m : Micro) (h : Twin k s s') : TwinDone k (.hold m s) (.hold m s')

/-- Two bytes read: the same, from twins. -/
def TwinRead (k : Byte) (r r' : Byte × State) : Prop := r'.1 = r.1 ∧ Twin k r.2 r'.2

theorem Twins.cases {α : Type} {k : Byte} {R : α → α → Prop} {r r' : Except State α} (h : Twins k R r r') :
    (∃ s s', r = .error s ∧ r' = .error s' ∧ Twin k s s') ∨ ∃ a a', r = .ok a ∧ r' = .ok a' ∧ R a a' := by
  cases r <;> cases r'
  case error.error => exact .inl ⟨_, _, rfl, rfl, h⟩
  case ok.ok => exact .inr ⟨_, _, rfl, rfl, h⟩
  all_goals exact h.elim

theorem Twins.bind {α β : Type} {k : Byte} {R : α → α → Prop} {Q : β → β → Prop} {r r' : Except State α}
    {f f' : α → Except State β} (h : Twins k R r r') (hf : ∀ a a', R a a' → Twins k Q (f a) (f' a')) :
    Twins k Q (r >>= f) (r' >>= f') := by
  rcases h.cases with ⟨s, s', rfl, rfl, hs⟩ | ⟨a, a', rfl, rfl, ha⟩
  · exact hs
  · exact hf _ _ ha

theorem Twins.plain {k : Byte} {r r' : Except State State} (h : Twins k (Twin k) r r') :
    Twins k (TwinDone k) (plain r) (plain r') := by
  rcases h.cases with ⟨s, s', rfl, rfl, hs⟩ | ⟨s, s', rfl, rfl, hs⟩
  · exact hs
  · exact .done hs

/-- Setting or clearing other bits goes through the flip. -/
theorem maskBits_xor {m k : Byte} (on : Bool) (v : Byte) (h : m &&& k = 0x00#8) :
    maskBits m on (v ^^^ k) = maskBits m on v ^^^ k := by
  ext j hj
  have hbit : (m[j] && k[j]) = false := by
    rw [← BitVec.getElem_and, h, BitVec.getElem_zero]
  cases on <;> cases hm : m[j] <;> cases hk : k[j] <;> simp_all [maskBits]

section
variable {k : Byte} {s s' : State}

/-- An update that the flip does not touch. -/
theorem Twin.update (h : Twin k s s') {f : State → State} (hcfg : (f s).cfg = s.cfg) (hf : f (s.flip k) = (f s).flip k) :
    Twin k (f s) (f s') :=
  ⟨by rw [hcfg]; exact h.lines, by rw [h.eq, hf]⟩

theorem Twin.emit (h : Twin k s s') (e : Event) : Twin k (s.emit e) (s'.emit (e.flip k)) :=
  ⟨h.lines, by rw [h.eq]; simp [State.emit, State.flip]⟩

theorem Twin.transact (h : Twin k s s') {t t' : Tx} {e e' : Event} (he : e' = e.flip k)
    (ht : Event.fails t' = (Event.fails t).flip k) : Twins k (Twin k) (transact t e s) (transact t' e' s') := by
  have hf : s'.faultIn = s.faultIn := by rw [h.eq]; rfl
  unfold Machine.transact
  rw [hf, he, ht]
  cases s.faultIn with
  | none => exact h.emit e
  | some n =>
    cases n with
    | zero => exact h.emit (.fails t)
    | succ n => exact (h.update (f := fun x => x.setFaultIn (some n)) rfl rfl).emit e

theorem Twin.setSignal (h : Twin k s s') {m : Byte} (hm : m &&& k = 0x00#8) (on : Bool) :
    Twins k (Twin k) (setSignal m on s) (setSignal m on s') := by
  have hsh : maskBits m on s'.shadow = maskBits m on s.shadow ^^^ k := by
    rw [h.eq]
    exact maskBits_xor on _ hm
  have hw : Twin k (s.setShadow (maskBits m on s.shadow)) (s'.setShadow (maskBits m on s'.shadow)) :=
    ⟨h.lines, by rw [hsh, h.eq]; rfl⟩
  exact hw.transact (by rw [hsh]; rfl) (by rw [hsh]; rfl)

theorem Twin.setDir (h : Twin k s s') (p : Port) (m : Byte) (input : Bool) :
    Twins k (Twin k) (setDir p m input s) (setDir p m input s') := by
  have hdir : s'.dirOf p = s.dirOf p := by rw [h.eq]; cases p <;> rfl
  unfold Machine.setDir portDir
  rw [hdir]
  exact (h.update (f := fun x => x.setDirOf p (maskBits m input (s.dirOf p))) (State.setDirOf_cfg _ _ _)
    (by cases p <;> rfl)).transact rfl rfl

theorem Twin.dataOut (h : Twin k s s') (b : Byte) : Twins k (Twin k) (portOut .data b s) (portOut .data b s') :=
  h.transact rfl rfl

theorem Twin.portIn (h : Twin k s s') : Twins k (TwinRead k) (portIn s) (portIn s') := by
  have hin : nextInput s' = nextInput s := by rw [h.eq]; rfl
  have htr : Twins k (Twin k) (Machine.transact .rd (.rd (nextInput s)) s) (Machine.transact .rd (.rd (nextInput s)) s') :=
    h.transact rfl rfl
  unfold Machine.portIn
  rw [hin]
  rcases htr.cases with ⟨t, t', hr, hr', ht⟩ | ⟨t, t', hr, hr', ht⟩ <;> rw [hr, hr']
  · exact ht
  · exact ⟨rfl, ht.update (f := State.takeInput) rfl rfl⟩

theorem Twin.cfg (h : Twin k s s') : s'.cfg = s.cfg := by rw [h.eq]; rfl

theorem Twin.pollOnce (h : Twin k s s') : Twins k (TwinRead k) (pollOnce s) (pollOnce s') := by
  have line : ∀ {mask : SigMap → Byte} {t t' : State} (on : Bool),
      (∀ sg, lineMask sg &&& k = 0x00#8 → mask sg &&& k = 0x00#8) → Twin k t t' →
      Twins k (Twin k) (Machine.setSignal (mask t.cfg.sig) on t) (Machine.setSignal (mask t'.cfg.sig) on t') :=
    fun on hm ht => by
      rw [ht.cfg]
      exact ht.setSignal (hm _ ht.lines) on
  have hrs : ∀ sg, lineMask sg &&& k = 0x00#8 → sg.rs &&& k = 0x00#8 := fun _ hl => (lineMask_and_eq_zero.1 hl).1
  have hrw : ∀ sg, lineMask sg &&& k = 0x00#8 → sg.rw &&& k = 0x00#8 := fun _ hl => (lineMask_and_eq_zero.1 hl).2.1
  have hen : ∀ sg, lineMask sg &&& k = 0x00#8 → sg.en &&& k = 0x00#8 := fun _ hl => (lineMask_and_eq_zero.1 hl).2.2
  refine (line false hrs h).bind fun _ _ h => ?_
  refine (line true hrw h).bind fun _ _ h => ?_
  refine (h.setDir .data 0xFF true).bind fun _ _ h => ?_
  refine (line true hen h).bind fun _ _ h => ?_
  refine h.portIn.bind fun _ _ hr => ?_
  refine (line false hen hr.2).bind fun _ _ h => ?_
  exact (h.setDir .data 0xFF false).bind fun _ _ h => ⟨hr.1, h⟩

theorem Twin.pollTest (h : Twin k s s') {n : Nat} {again again' : State → Except State Done} (v : Byte)
    (hagain : Twins k (TwinDone k) (again s) (again' s')) :
    Twins k (TwinDone k) (pollTest n again v s) (pollTest n again' v s') := by
  unfold Machine.pollTest
  rw [h.cfg]
  split
  · split
    · exact h.emit .deadline
    · exact hagain
  · exact .done h

theorem Twin.busyPoll (fuel n : Nat) (h : Twin k s s') : Twins k (TwinDone k) (busyPoll fuel n s) (busyPoll fuel n s') := by
  induction fuel generalizing n s s' with
  | zero =>
    rw [Machine.busyPoll, Machine.busyPoll]
    rcases h.pollOnce.cases with ⟨t, t', hr, hr', ht⟩ | ⟨⟨_, t⟩, ⟨v, t'⟩, hr, hr', rfl, ht⟩ <;> rw [hr, hr']
    · exact ht
    · exact ht.pollTest v (.hold _ ht)
  | succ fuel ih =>
    rw [Machine.busyPoll, Machine.busyPoll]
    rcases h.pollOnce.cases with ⟨t, t', hr, hr', ht⟩ | ⟨⟨_, t⟩, ⟨v, t'⟩, hr, hr', rfl, ht⟩ <;> rw [hr, hr']
    · exact ht
    · exact ht.pollTest v (ih _ ht)

theorem Twin.inputs (h : Twin k s s') : s'.inputs = s.inputs := by rw [h.eq]; rfl

theorem Twin.waitReady (h : Twin k s s') : Twins k (TwinDone k) (waitReady s) (waitReady s') := by
  have hmode : s'.waitMode = s.waitMode := by rw [h.eq]; rfl
  unfold Machine.waitReady
  rw [hmode, h.inputs]
  split
  · exact .done h
  · exact h.busyPoll _ _

/-- A step that drives no bit of `k`. -/
theorem Twin.perform (h : Twin k s s') {m : Micro} (hm : ∀ mask on, m = .signal mask on → mask &&& k = 0x00#8) :
    Twins k (TwinDone k) (perform m s) (perform m s') := by
  cases m with
  | signal mask on => exact (h.setSignal (hm mask on rfl) on).plain
  | dir p mask input => exact (h.setDir p mask input).plain
  | dataOut b => exact (h.dataOut b).plain
  | sample =>
    unfold Machine.perform
    rcases h.portIn.cases with ⟨t, t', hr, hr', ht⟩ | ⟨⟨_, t⟩, ⟨v, t'⟩, hr, hr', rfl, ht⟩ <;> rw [hr, hr']
    · exact ht
    · exact .done (ht.update (f := fun x => x.pushOut v) rfl rfl)
  | wait => exact h.waitReady
  | poll n =>
    unfold Machine.perform
    rw [h.inputs]
    exact h.busyPoll _ n
  | delay t => exact .done (h.emit (.dly t))
  | record op v => exact .done (h.update (f := fun x => x.record op v) rfl rfl)
  | cursor c r => exact .done (h.update (f := fun x => x.setCursor c r) rfl rfl)
  | pos j p => exact .done (h.update (f := fun x => x.setPosOf j p) (State.setPosOf_cfg _ _ _) (by cases j <;> rfl))
  | mode w => exact .done (h.update (f := fun x => x.setMode w) rfl rfl)
  | ctrl c => exact .done (h.update (f := fun x => x.setCtrl c) rfl rfl)
  | powered b => exact .done (h.update (f := fun x => x.setPowered b) rfl rfl)
  | close => exact .done (h.update (f := State.setClosed) rfl rfl)
  | respond => exact .done (h.update (f := fun x => x.answer { status := .ok, data := x.out }) rfl rfl)

theorem Twin.run {ms : List Micro} (hms : ∀ mask on, .signal mask on ∈ ms → mask &&& k = 0x00#8) (h : Twin k s s') :
    Twin k (run ms s) (run ms s') := by
  induction ms generalizing s s' with
  | nil => exact h
  | cons m ms ih =>
    have hstep := h.perform (m := m) fun mask on e => hms mask on (e ▸ List.mem_cons_self)
    rw [Machine.run, Machine.run]
    rcases hstep.cases with ⟨t, t', hr, hr', ht⟩ | ⟨d, d', hr, hr', hd⟩ <;> rw [hr, hr']
    · exact ht.update (f := onBusFault) rfl rfl
    · cases hd with
      | done ht => exact ih (fun mask on hmem => hms mask on (List.mem_cons_of_mem _ hmem)) ht
      | hold m' ht => exact ht.update (f := fun x => x.setSeq (m' :: ms)) rfl rfl

end

/-! ## The obligation -/

/-- The control byte has no part in which steps an instruction runs, nor in whether it is admitted. -/
theorem program_setShadow (i : Instr) (s : State) (v : Byte) : program (s.setShadow v) i = program s i := by
  cases i <;> rfl

/-- A request on twins: refused alike, or run alike from a new trace. -/
theorem serve_setShadow {s : State} {k : Byte} (needReady : Bool) {prog : Geometry → Except Status (List Micro)}
    (hrun : ∀ g ms, prog g = .ok ms → run ms (s.setShadow (s.shadow ^^^ k)).begin = (run ms s.begin).flip k) :
    serve needReady prog (s.setShadow (s.shadow ^^^ k)) = (serve needReady prog s).flip k := by
  have hadm : admission needReady (s.setShadow (s.shadow ^^^ k)) = admission needReady s := rfl
  unfold serve
  rw [State.setShadow_geom, hadm]
  cases s.geom with
  | none => rfl
  | some g =>
    dsimp only
    cases admission needReady s with
    | some e => rfl
    | none =>
      dsimp only
      cases hp : prog g with
      | error e => rfl
      | ok ms => exact hrun g ms hp

/-- An instruction on twins. -/
theorem exec_setShadow {i : Instr} {s t : State} (hsig : s.cfg.sig.wf = true) (h : exec i s = .next t) :
    exec i (s.setShadow (s.shadow ^^^ s.cfg.sig.irs)) = .next (t.flip s.cfg.sig.irs) := by
  rw [exec_eq_serve] at h ⊢
  cases h
  rw [program_setShadow, serve_setShadow]
  intro g ms hp
  have hstart : Twin s.cfg.sig.irs s.begin (s.setShadow (s.shadow ^^^ s.cfg.sig.irs)).begin :=
    ⟨signals_disjoint_irs hsig .clear, rfl⟩
  have hmasks : ∀ mask on, Micro.signal mask on ∈ ms → mask &&& s.cfg.sig.irs = 0x00#8 := fun _ _ hm =>
    disjoint_of_part (within_program hp _ hm) (signals_disjoint_irs hsig i)
  exact (hstart.run hmasks).eq

/-- Settles O17: the run from the flipped control byte is the twin of the run from the control byte itself. -/
theorem irsHasNoEffect : Obligations.IrsHasNoEffect := by
  intro i s t hsig h flip seen
  have hseen : seen = Event.flip s.cfg.sig.irs := by
    funext e
    cases e with
    | fails x => cases x <;> rfl
    | _ => rfl
  rw [hseen]
  exact exec_setShadow hsig h

end Sys2Proof.Machine
end

section
/-! OBLIGATION. The supported geometries and the DDRAM translator (20_memory.md R61 to R64). -/

namespace Sys2Proof.Machine

/-! ## The supported pairs -/

/-- The rows of ADDR_TABLE, by declared pair (R63). -/
def tableRows (t : AddrTable) : List ((Nat × Nat) × List (BitVec 7)) :=
  [((16, 1), t.g16x1), ((16, 2), t.g16x2), ((16, 4), t.g16x4), ((20, 2), t.g20x2), ((20, 4), t.g20x4), ((40, 2), t.g40x2),
    ((40, 4), t.g40x4)]

theorem rowBases_eq_some_iff {t : AddrTable} {c r : Nat} {b : List (BitVec 7)} :
    rowBases t c r = some b ↔ ((c, r), b) ∈ tableRows t := by
  unfold rowBases tableRows
  split
  case h_8 => simp_all
  all_goals simp [eq_comm]

theorem rowBases_eq_none_iff {t : AddrTable} {c r : Nat} :
    rowBases t c r = none ↔ (c, r) ∉ (tableRows t).map Prod.fst := by
  simp only [Option.eq_none_iff_forall_ne_some, ne_eq, rowBases_eq_some_iff, List.mem_map, Prod.exists, exists_and_right,
    exists_eq_right, not_exists]

theorem geometryOf_eq_some {p : Params} {c r : Nat} {g : Geometry} (h : geometryOf p c r = some g) :
    ∃ b, rowBases p.addrTable c r = some b ∧ g = ⟨c, r, (normalise c r).1, (normalise c r).2, b⟩ := by
  unfold geometryOf at h
  split at h
  · cases h
  · next b hb =>
    cases h
    exact ⟨b, hb, rfl⟩

theorem geometryOf_eq_none_iff {p : Params} {c r : Nat} : geometryOf p c r = none ↔ rowBases p.addrTable c r = none := by
  unfold geometryOf
  split
  · next hb => simp [hb]
  · next b hb => simp [hb]

/-- The geometry is fixed before the latch is read (70_reset_and_hazards.md R300). -/
@[simp] theorem construct_geom (p : Params) (c r : Nat) (latch : Option Byte) :
    (construct p c r latch).geom = geometryOf p c r := by
  unfold construct
  cases geometryOf p c r with
  | none => rfl
  | some g => cases latch <;> rfl

/-- Settles O38: the seven pairs are the rows of the table, and only (16,1) is normalised. -/
theorem geometries : Obligations.Geometries := by
  intro p c r
  refine ⟨fun latch => ?_, fun latch g hg => ?_⟩
  · rw [construct_geom, geometryOf_eq_none_iff, rowBases_eq_none_iff]
    rfl
  · rw [construct_geom] at hg
    obtain ⟨b, hb, rfl⟩ := geometryOf_eq_some hg
    have hone : c = 16 → r = 1 → normalise c r = (8, 2) := fun hc hr => if_pos ⟨hc, hr⟩
    have hdecl : ¬(c = 16 ∧ r = 1) → normalise c r = (c, r) := fun h => if_neg h
    refine ⟨rfl, rfl, fun hc hr => ?_, fun h => ?_, rowBases_eq_some_iff.1 hb⟩
    · rw [hone hc hr]
      exact ⟨rfl, rfl⟩
    · rw [hdecl h]
      exact ⟨rfl, rfl⟩

/-! ## A position's address -/

theorem basesWf_iff {bases : List (BitVec 7)} {cols rows : Nat} :
    basesWf bases cols rows = true ↔ bases.length = rows ∧ ∀ b ∈ bases, b.toNat + cols ≤ 0x80 := by
  simp [basesWf]

/-- Each row of a lawful table is lawful for the normalised pair (92_eei_decisions.md D8). -/
theorem basesWf_of_rowBases {t : AddrTable} (h : t.wf = true) {c r : Nat} {b : List (BitVec 7)} (hb : rowBases t c r = some b) :
    basesWf b (normalise c r).1 (normalise c r).2 = true := by
  simp only [AddrTable.wf, Bool.and_eq_true] at h
  unfold rowBases at hb
  split at hb
  case h_8 => cases hb
  all_goals
    cases hb
    simp [normalise, h]

/-- Under lawful parameters every supported geometry is lawful. -/
theorem geometryOf_wf {p : Params} (hp : p.wf = true) {c r : Nat} {g : Geometry} (h : geometryOf p c r = some g) : g.wf := by
  have ht : p.addrTable.wf = true := by
    simp only [Params.wf, Bool.and_eq_true] at hp
    simp only [hp]
  obtain ⟨hcols, hrows⟩ := geometryOf_positions h
  obtain ⟨b, hb, rfl⟩ := geometryOf_eq_some h
  exact ⟨hcols, hrows, basesWf_of_rowBases ht hb⟩

/-- A position of a lawful geometry has a row base and a 7-bit address. -/
theorem Geometry.wf.exists_base {g : Geometry} (h : g.wf) {c r : Nat} (hc : c < g.cols) (hr : r < g.rows) :
    ∃ b : BitVec 7, g.base[r]? = some b ∧ rowBase g r = b.toNat ∧ b.toNat + c < 0x80 := by
  obtain ⟨-, -, hbase⟩ := h
  obtain ⟨hlen, hfits⟩ := basesWf_iff.1 hbase
  have hr' : r < g.base.length := hlen ▸ hr
  have := hfits _ (List.getElem_mem hr')
  exact ⟨g.base[r], List.getElem?_eq_getElem hr', by rw [rowBase, List.getD_eq_getElem _ _ hr'], by omega⟩

/-- Below an opcode bit, the operand's bits are added to it (30_encoding.md R100). -/
theorem twoPow_or_ofNat {i n : Nat} (hi : i < 8) (hn : n < 2 ^ i) :
    BitVec.twoPow 8 i ||| BitVec.ofNat 8 n = BitVec.ofNat 8 (2 ^ i + n) := by
  have hbyte : 2 ^ i + n < 2 ^ 8 := by
    have : 2 ^ (i + 1) ≤ 2 ^ 8 := Nat.pow_le_pow_right (by decide) hi
    omega
  refine BitVec.eq_of_toNat_eq ?_
  rw [BitVec.toNat_or, BitVec.toNat_twoPow_of_lt hi, BitVec.toNat_ofNat, BitVec.toNat_ofNat, Nat.mod_eq_of_lt hbyte,
    Nat.mod_eq_of_lt (by omega)]
  simpa using (Nat.two_pow_add_eq_or_of_lt hn 1).symm

/-- The instruction byte of a position's address (R64). -/
theorem setDdramAddress_or_ddram {g : Geometry} (hg : g.wf) {c r : Nat} (hc : c < g.cols) (hr : r < g.rows) :
    lcdOpcode .setDdramAddress ||| ddram g c r = ddramByte g c r := by
  obtain ⟨b, -, hrow, hfits⟩ := hg.exists_base hc hr
  exact twoPow_or_ofNat (i := 7) (n := rowBase g r + c) (by decide) (by omega)

/-- Settles O39: every supported geometry is lawful, and in a lawful geometry the address has 7 bits. -/
theorem ddramAddress : Obligations.DdramAddress := by
  intro p dc dr g hp hg c r hc hr
  have hwf := geometryOf_wf hp hg
  obtain ⟨b, hb, hrow, hfits⟩ := hwf.exists_base hc hr
  refine ⟨b, hb, ?_, hfits, ?_⟩
  · rw [ddram, hrow, BitVec.toNat_ofNat, Nat.mod_eq_of_lt (by omega)]
  · rw [setDdramAddress_or_ddram hwf hc hr, ddramByte, ← rowBase, hrow, BitVec.toNat_ofNat, Nat.mod_eq_of_lt (by omega)]

end Sys2Proof.Machine
end

section
/-! OBLIGATION. SET_CURSOR (41_lcd_control.md R178) and DEFINE_GLYPH (42_text_and_memory.md R215) complete. -/

namespace Sys2Proof.Machine

/-- A glyph's address is eight times its index (20_memory.md R67). -/
theorem glyphAddress_eq (index : Byte) : glyphAddress index = BitVec.ofNat 8 (8 * index.toNat) := by
  refine BitVec.eq_of_toNat_eq ?_
  rw [glyphAddress, BitVec.toNat_shiftLeft, BitVec.toNat_ofNat, Nat.shiftLeft_eq, Nat.mul_comm]

/-- The instruction byte of a glyph's address. -/
theorem setCgramAddress_or_glyphAddress {index : Byte} (h : index.toNat ≤ 7) :
    lcdOpcode .setCgramAddress ||| BitVec.ofNat 8 (8 * index.toNat) = BitVec.ofNat 8 (0x40 + 8 * index.toNat) :=
  twoPow_or_ofNat (i := 6) (by decide) (by omega)

/-- In a Ready block, an instruction whose range check passes runs its steps from the state with a new trace (60_exceptions.md
R277). -/
theorem exec_of_ready {s : State} {g : Geometry} (h : Ready s g) {i : Instr} (hi : needsReady i = true) {ms : List Micro}
    (hp : program s i g = .ok ms) : exec i s = .next (run ms (s.begin.bus s.shadow s.dirControl s.dirData [] 0)) := by
  rw [exec_eq_serve, hi, serve_ready h, hp]
  exact congrArg (fun t => Host.Outcome.next (run ms t)) (State.bus_start s.begin).symm

/-- The first command of a request of a Ready idle block (40_bus_primitives.md R140). -/
theorem ReadyIdle.run_first_command {s : State} {g : Geometry} (hs : ReadyIdle s g) {op : LcdOp} {v : Byte} {a : Answers}
    {rest : List Byte} (ha : a.Lawful s.cfg) (hv : s.inputs = a.bytes ++ rest)
    (hf : NoFault s (polledCmd s.cfg.sig s.shadow a (lcdOpcode op ||| v))) (ms : List Micro) :
    run (command s.cfg.sig op v ++ ms) (s.begin.bus s.shadow s.dirControl s.dirData [] 0)
      = run ms ((s.begin.record op v).bus s.shadow s.dirControl 0x00 (polledCmd s.cfg.sig s.shadow a (lcdOpcode op ||| v))
          a.bytes.length) := by
  have h := run_command_polled (s := s.begin) (sg := s.cfg.sig) (dc := s.dirControl) (dd := s.dirData) (tr := []) (n := 0)
    rfl op v hs.mode (SigMap.wf_disjoint hs.sig) hs.lines ha hv hf ms
  rwa [List.nil_append, Nat.zero_add] at h

/-- Settles O45: one polled command, whose byte is the wrapped position's. -/
theorem setCursorResult : Obligations.SetCursorResult := by
  intro s g a rest a0 a1 hs hg ha hv c r hf
  obtain ⟨hcols, hrows, -⟩ := id hg
  have hbyte : lcdOpcode .setDdramAddress ||| ddram g c r = ddramByte g c r :=
    setDdramAddress_or_ddram hg (Nat.mod_lt _ hcols) (Nat.mod_lt _ hrows)
  rw [← hbyte] at hf ⊢
  rw [exec_of_ready hs.toReady rfl rfl, setCursorSteps, hs.run_first_command ha hv hf, run_cursor, run_respond]
  rfl

/-- Settles O50: a polled command, a polled block and the polled command that restores the cursor's address (R183). -/
theorem defineGlyphResult : Obligations.DefineGlyphResult := by
  intro s g index bitmap a1 a2 a3 rest hs hg hcol hrow hindex hlen ha1 ha2 ha3 hv sg h tr hf
  obtain ⟨b, bs, rfl⟩ := List.exists_cons_of_length_eq_add_one hlen
  have hprogram : program s (.defineGlyph index (b :: bs)) g = .ok
      (command sg .setCgramAddress (BitVec.ofNat 8 (8 * index.toNat)) ++ writeBlock sg (b :: bs)
        ++ command sg .setDdramAddress (ddram g s.col s.row) ++ [.respond]) := by
    rw [program, glyphSteps, if_neg (by rw [Config.glyphs]; omega), glyphAddress_eq]
    rfl
  have hd := SigMap.wf_disjoint hs.sig
  have hv1 : s.inputs = a1.bytes ++ (a2.bytes ++ (a3.bytes ++ rest)) := by rw [hv]; simp
  have hv2 : s.inputs.drop a1.bytes.length = a2.bytes ++ (a3.bytes ++ rest) := by rw [hv]; simp
  have hv3 : s.inputs.drop (a1.bytes.length + a2.bytes.length) = a3.bytes ++ rest := by rw [hv]; simp [← List.drop_drop]
  simp only [tr, ← setCgramAddress_or_glyphAddress hindex, ← setDdramAddress_or_ddram hg hcol hrow] at hf ⊢
  rw [exec_of_ready hs.toReady rfl hprogram, List.append_assoc, List.append_assoc,
    hs.run_first_command ha1 hv1 hf.mono.mono,
    run_writeBlock_polled (s := s.begin.record _ _) (sg := sg) (a := a2) rfl _ _ hs.mode hd hs.lines ha2 hv2 hf.mono,
    run_command_polled (s := s.begin.record _ _) (sg := sg) (a := a3) rfl _ _ hs.mode hd hs.lines ha3 hv3 hf, run_respond,
    List.length_append, List.length_append]
  rfl

end Sys2Proof.Machine
end

section
/-! OBLIGATION. PRINT addresses only positions of the display (42_text_and_memory.md R210 to R214): which bytes the lines, the
words and the spans keep, how wide the spans are, and where the layout puts them. -/

namespace Sys2Proof.Machine

/-- The bytes of a text that are written whatever the wrapping: all but spaces (R211, R214). -/
def ink (bs : List Byte) : List Byte := bs.filter (fun b => decide (b ≠ 0x20#8))

@[simp] theorem ink_nil : ink [] = [] := rfl
@[simp] theorem ink_append (a b : List Byte) : ink (a ++ b) = ink a ++ ink b := List.filter_append a b
@[simp] theorem ink_space_cons (bs : List Byte) : ink (0x20#8 :: bs) = ink bs := rfl
@[simp] theorem ink_ink (bs : List Byte) : ink (ink bs) = ink bs := by simp [ink]

/-! ## Lines and words -/

/-- The lines are the text without its breaks (R212). -/
theorem linesFrom_flatten (cur p : List Byte) :
    (linesFrom cur p).flatten = cur ++ p.filter (fun b => decide (b ≠ 0x0A#8)) := by
  induction p generalizing cur with
  | nil => simp [linesFrom]
  | cons b bs ih =>
    rw [linesFrom]
    by_cases hb : b = 0x0A#8 <;> simp [hb, ih]

/-- The words are the line without its spaces (R211). -/
theorem wordsFrom_flatten (cur line : List Byte) : (wordsFrom cur line).flatten = cur ++ ink line := by
  induction line generalizing cur with
  | nil =>
    rw [wordsFrom]
    split
    · simp [*]
    · simp
  | cons b bs ih =>
    rw [wordsFrom]
    by_cases hb : b = 0x20#8
    · by_cases hcur : cur = [] <;> simp [hb, hcur, ih]
    · simp [hb, ih, ink]

/-! ## Spans -/

/-- All bytes gathered so far. -/
def WrapState.bytes (st : WrapState) : List Byte := st.spans.flatten ++ st.cur

/-- One word is gathered whole, but for the space that joins it. -/
theorem placeWord_ink (full fuel : Nat) (w : List Byte) (st : WrapState) (h : st.cur = [] ∨ 0 < fuel) :
    ink (placeWord full fuel w st).bytes = ink st.bytes ++ ink w := by
  fun_induction placeWord full fuel w st with
  | case1 w st =>
    have hcur : st.cur = [] := h.resolve_right (Nat.lt_irrefl 0)
    simp [WrapState.bytes, hcur]
  | case2 w st fuel hcur hfits => simp [WrapState.bytes, hcur]
  | case3 w st fuel hcur hfits hlong ih =>
    rw [ih (.inl rfl)]
    simp [WrapState.bytes, hcur, ← ink_append]
  | case4 w st fuel hcur hfits hlong ih =>
    rw [ih (.inl rfl)]
    simp [WrapState.bytes, hcur]
  | case5 w st fuel hcur hjoins => simp [WrapState.bytes]
  | case6 w st fuel hcur hjoins ih =>
    rw [ih (.inl rfl)]
    simp [WrapState.bytes]

theorem placeWords_ink (full : Nat) (ws : List (List Byte)) (st : WrapState) :
    ink (placeWords full ws st).bytes = ink st.bytes ++ ink ws.flatten := by
  induction ws generalizing st with
  | nil => simp [placeWords]
  | cons w ws ih =>
    rw [placeWords, ih, placeWord_ink _ _ _ _ (.inr (Nat.succ_pos _)), List.flatten_cons, ink_append, List.append_assoc]

/-- The spans of a line are the bytes gathered. -/
theorem wrap_flatten (line : List Byte) (room full : Nat) :
    (wrap line room full).flatten = (placeWords full (splitWords line) ⟨[], [], room⟩).bytes := by
  simp only [wrap, WrapState.bytes]
  split
  · simp [*]
  · simp

/-- Wrapping drops and moves no byte but spaces. -/
theorem ink_wrap (line : List Byte) (room full : Nat) : ink (wrap line room full).flatten = ink line := by
  rw [wrap_flatten, placeWords_ink, splitWords, wordsFrom_flatten]
  simp [WrapState.bytes]

/-- The spans gathered keep their widths: the first has `room`, the others `full`. -/
structure WrapState.Fits (room full : Nat) (st : WrapState) : Prop where
  width : st.width = if st.spans = [] then room else full
  cur : st.cur.length ≤ st.width
  first : ∀ sp ∈ st.spans.head?, sp.length ≤ room
  each : ∀ sp ∈ st.spans, sp.length ≤ full

section
variable {room full : Nat} {st : WrapState}

theorem WrapState.Fits.width_le (h : st.Fits room full) (hroom : room ≤ full) : st.width ≤ full := by
  rw [h.width]
  split
  · exact hroom
  · exact Nat.le_refl _

theorem WrapState.Fits.width_pos (h : st.Fits room full) (hpos : 0 < room) (hroom : room ≤ full) : 0 < st.width := by
  rw [h.width]
  split
  · exact hpos
  · exact Nat.lt_of_lt_of_le hpos hroom

/-- Gathering on the row begun. -/
theorem WrapState.Fits.gather (h : st.Fits room full) {cur : List Byte} (hcur : cur.length ≤ st.width) :
    WrapState.Fits room full { st with cur := cur } :=
  ⟨h.width, hcur, h.first, h.each⟩

/-- Ending a span and beginning a whole row. -/
theorem WrapState.Fits.push (h : st.Fits room full) (hroom : room ≤ full) {sp : List Byte} (hsp : sp.length ≤ st.width) :
    WrapState.Fits room full ⟨st.spans ++ [sp], [], full⟩ where
  width := by simp
  cur := Nat.zero_le _
  first := by
    intro x hx
    cases hspans : st.spans with
    | nil =>
      have hwidth : st.width = room := by rw [h.width, if_pos hspans]
      obtain rfl : sp = x := by simpa [hspans] using hx
      exact hwidth ▸ hsp
    | cons y ys => exact h.first x (by simpa [hspans] using hx)
  each := by
    intro x hx
    rcases List.mem_append.1 hx with hx | hx
    · exact h.each x hx
    · rw [List.mem_singleton.1 hx]
      exact Nat.le_trans hsp (h.width_le hroom)

end

/-- One word keeps the widths: the rounds suffice, since each cut takes at least one byte. -/
theorem placeWord_fits {room full : Nat} (hpos : 0 < room) (hroom : room ≤ full) (fuel : Nat) (w : List Byte) (st : WrapState)
    (h : st.Fits room full)
    (hfuel : 0 < fuel ∧ (st.width < w.length → w.length < fuel) ∧ (st.cur ≠ [] → w.length + 1 < fuel)) :
    (placeWord full fuel w st).Fits room full := by
  have hwidth : ∀ {st}, WrapState.Fits room full st → 0 < st.width := fun h => h.width_pos hpos hroom
  fun_induction placeWord full fuel w st with
  | case1 w st => exact absurd hfuel.1 (Nat.lt_irrefl 0)
  | case2 w st fuel hcur hfits => exact h.gather hfits
  | case3 w st fuel hcur hfits hlong ih =>
    refine ih (h.push hroom (by simp)) ?_
    have := hwidth h
    simp only [List.length_drop, ne_eq, not_true_eq_false, false_implies, and_true]
    omega
  | case4 w st fuel hcur hfits hlong ih =>
    refine ih (h.push hroom (by simp)) ?_
    have := hwidth h
    simp only [ne_eq, not_true_eq_false, false_implies, and_true]
    omega
  | case5 w st fuel hcur hjoins => exact h.gather (by simpa [Nat.add_assoc, Nat.add_comm 1] using hjoins)
  | case6 w st fuel hcur hjoins ih =>
    refine ih (h.push hroom h.cur) ?_
    have := hfuel.2.2 hcur
    simp only [ne_eq, not_true_eq_false, false_implies, and_true]
    omega

theorem placeWords_fits {room full : Nat} (hpos : 0 < room) (hroom : room ≤ full) (ws : List (List Byte)) {st : WrapState}
    (h : st.Fits room full) : (placeWords full ws st).Fits room full := by
  induction ws generalizing st with
  | nil => exact h
  | cons w ws ih => exact ih (placeWord_fits hpos hroom _ w st h (by omega))

/-- The first span has at most `room` bytes and every span at most `full` (R211). -/
theorem wrap_widths {room full : Nat} (hpos : 0 < room) (hroom : room ≤ full) (line : List Byte) :
    (∀ sp ∈ (wrap line room full).head?, sp.length ≤ room) ∧ ∀ sp ∈ wrap line room full, sp.length ≤ full := by
  have hstart : WrapState.Fits room full ⟨[], [], room⟩ := ⟨rfl, Nat.zero_le _, nofun, nofun⟩
  have h := placeWords_fits hpos hroom (splitWords line) hstart
  rw [wrap]
  split
  · exact ⟨h.first, h.each⟩
  · have h' := h.push hroom h.cur
    exact ⟨h'.first, h'.each⟩

/-! ## Where the bytes land -/

/-- The bytes a transfer writes to the LCD. -/
def Transfer.written : Transfer → List Byte
  | .address _ _ => []
  | .block bs => bs

/-- The bytes land in the order written, wherever the counter is. -/
theorem placements_written (ts : List Transfer) (c r : Nat) :
    (placements ts c r).map (fun x => x.2.2) = ts.flatMap Transfer.written := by
  induction ts generalizing c r with
  | nil => rfl
  | cons t ts ih =>
    cases t with
    | address c' r' => simp [placements, Transfer.written, ih]
    | block bs =>
      have hbytes : bs.zipIdx.map (fun p => p.1) = bs := List.zipIdx_map_fst 0 bs
      simp [placements, Transfer.written, ih, Function.comp_def, hbytes]

/-- Every address sent is on the display, and from the counter at (c, r) every byte is. -/
def Lands (g : Geometry) : List Transfer → Nat → Nat → Prop
  | [], _, _ => True
  | .address c r :: ts, _, _ => OnDisplay g c r ∧ Lands g ts c r
  | .block bs :: ts, c, r => (c + bs.length ≤ g.cols ∧ r < g.rows) ∧ Lands g ts (c + bs.length) r

section
variable {g : Geometry}

theorem Lands.placements {ts : List Transfer} {c r : Nat} (h : Lands g ts c r) :
    ∀ x ∈ placements ts c r, x.1 < g.cols ∧ x.2.1 < g.rows := by
  induction ts generalizing c r with
  | nil => exact fun x hx => by cases hx
  | cons t ts ih =>
    cases t with
    | address c' r' => exact ih h.2
    | block bs =>
      obtain ⟨⟨hcols, hrows⟩, hrest⟩ := h
      intro x hx
      rcases List.mem_append.1 hx with hx | hx
      · obtain ⟨⟨b, k⟩, hk, rfl⟩ := List.mem_map.1 hx
        have hlt := List.snd_lt_of_mem_zipIdx hk
        exact ⟨by dsimp only; omega, hrows⟩
      · exact ih hrest x hx

theorem Lands.addresses {ts : List Transfer} {c r : Nat} (h : Lands g ts c r) {a b : Nat} (hx : .address a b ∈ ts) :
    OnDisplay g a b := by
  induction ts generalizing c r with
  | nil => cases hx
  | cons t ts ih =>
    cases t with
    | address c' r' =>
      rcases List.mem_cons.1 hx with hx | hx
      · cases hx
        exact h.1
      · exact ih h.2 hx
    | block bs =>
      rcases List.mem_cons.1 hx with hx | hx
      · cases hx
      · exact ih h.2 hx

/-- What follows must not rely on where the counter is. -/
theorem Lands.append {a b : List Transfer} {c r : Nat} (ha : Lands g a c r) (hb : ∀ c r, Lands g b c r) :
    Lands g (a ++ b) c r := by
  induction a generalizing c r with
  | nil => exact hb c r
  | cons t ts ih =>
    cases t with
    | address c' r' => exact ⟨ha.1, ih ha.2⟩
    | block bs => exact ⟨ha.1, ih ha.2⟩

/-! ## The layout -/

theorem layoutSpans_written (first : Bool) (spans : List (List Byte)) (c r : Nat) :
    (layoutSpans g first spans c r).transfers.flatMap Transfer.written = spans.flatten := by
  induction spans generalizing first c r with
  | nil => rfl
  | cons sp rest ih =>
    rw [layoutSpans]
    split_ifs <;> simp [Transfer.written, ih]

theorem layoutLines_ink (first : Bool) (lines : List (List Byte)) (c r : Nat) :
    ink ((layoutLines g first lines c r).transfers.flatMap Transfer.written) = ink lines.flatten := by
  induction lines generalizing first c r with
  | nil => rfl
  | cons line rest ih => simp [layoutLines, Transfer.written, layoutSpans_written, ink_wrap, ih]

/-- A span written where the cursor is, then the address of the next row if it fills its own. -/
theorem layoutSpans_stay {first : Bool} {c : Nat} (h : first = true ∨ c = 0) (sp : List Byte) (rest : List (List Byte))
    (r : Nat) :
    (layoutSpans g first (sp :: rest) c r).transfers = .block sp ::
      if g.cols ≤ c + sp.length then .address 0 (nextRow g r) :: (layoutSpans g false rest 0 (nextRow g r)).transfers
      else (layoutSpans g false rest (c + sp.length) r).transfers := by
  have hadvance : (!first && decide (c ≠ 0)) = false := by rcases h with rfl | rfl <;> simp
  simp only [layoutSpans, hadvance]
  by_cases hfull : g.cols ≤ c + sp.length <;> simp [hfull]

/-- A later span on a row begun goes to the next row, behind its address. -/
theorem layoutSpans_advance {c : Nat} (hc : c ≠ 0) (sp : List Byte) (rest : List (List Byte)) (r : Nat) :
    (layoutSpans g false (sp :: rest) c r).transfers =
      .address 0 (nextRow g r) :: (layoutSpans g false (sp :: rest) 0 (nextRow g r)).transfers := by
  simp [layoutSpans, hc]

/-- Spans that fit their rows land on the display: the counter is where the layout's cursor is. -/
theorem layoutSpans_lands (hg : OnDisplay g 0 0) (spans : List (List Byte)) (first : Bool) {c r : Nat} (h : OnDisplay g c r)
    (hfirst : first = true → ∀ sp ∈ spans.head?, c + sp.length ≤ g.cols)
    (hwidth : ∀ sp ∈ spans, sp.length ≤ g.cols) : Lands g (layoutSpans g first spans c r).transfers c r := by
  obtain ⟨hcols, hrows⟩ := hg
  induction spans generalizing first c r with
  | nil => trivial
  | cons sp rest ih =>
    obtain ⟨hsp, hrest⟩ := List.forall_mem_cons.1 hwidth
    have hnext : ∀ r, OnDisplay g 0 (nextRow g r) := fun r => ⟨hcols, nextRow_lt hrows r⟩
    have hstay : ∀ {first c r}, OnDisplay g c r → first = true ∨ c = 0 → c + sp.length ≤ g.cols →
        Lands g (layoutSpans g first (sp :: rest) c r).transfers c r := by
      intro first c r h hf hfits
      rw [layoutSpans_stay hf]
      refine ⟨⟨hfits, h.2⟩, ?_⟩
      split
      · exact ⟨hnext r, ih false (hnext r) nofun hrest⟩
      · next hfull => exact ih false ⟨Nat.lt_of_not_le hfull, h.2⟩ nofun hrest
    cases first with
    | true => exact hstay h (.inl rfl) (hfirst rfl sp rfl)
    | false =>
      by_cases hc : c = 0
      · exact hstay h (.inr hc) (by omega)
      · rw [layoutSpans_advance hc]
        exact ⟨hnext r, hstay (hnext r) (.inr rfl) (by omega)⟩

/-- Each line begins with an address, so it lands on the display wherever the counter is. -/
theorem layoutLines_lands (hg : OnDisplay g 0 0) (lines : List (List Byte)) (first : Bool) {c r : Nat} (h : OnDisplay g c r)
    (c0 r0 : Nat) : Lands g (layoutLines g first lines c r).transfers c0 r0 := by
  induction lines generalizing first c r c0 r0 with
  | nil => trivial
  | cons line rest ih =>
    simp only [layoutLines]
    have hstart : OnDisplay g (if first then c else 0) (if first then r else nextRow g r) := by
      cases first
      · exact ⟨hg.1, nextRow_lt hg.2 r⟩
      · exact h
    generalize (if first then c else 0) = c1 at hstart ⊢
    generalize (if first then r else nextRow g r) = r1 at hstart ⊢
    obtain ⟨hroom, hwidth⟩ := wrap_widths (Nat.sub_pos_of_lt hstart.1) (Nat.sub_le g.cols c1) line
    have hfits : ∀ sp ∈ (wrap line (g.cols - c1) g.cols).head?, c1 + sp.length ≤ g.cols := fun sp hsp => by
      have := hroom sp hsp
      have := hstart.1
      omega
    exact ⟨hstart, (layoutSpans_lands hg _ true hstart (fun _ => hfits) hwidth).append
      (ih false (layoutSpans_onDisplay hg _ _ _ _ hstart))⟩

end

/-- Settles O43: every line lands on the display, and the bytes written are those of the lines. -/
theorem printLandsOnDisplay : Obligations.PrintLandsOnDisplay := by
  intro g text c r hc hr l
  have hcursor : OnDisplay g c r := ⟨hc, hr⟩
  have hg : OnDisplay g 0 0 := ⟨Nat.zero_lt_of_lt hc, Nat.zero_lt_of_lt hr⟩
  have hlands : Lands g l.transfers c r := layoutLines_lands hg (splitLines text) true hcursor c r
  obtain ⟨hcol, hrow⟩ := layoutText_onDisplay hg text hcursor
  refine ⟨hlands.placements, ?_, hcol, hrow, fun x hx a b hab => hlands.addresses (hab ▸ hx)⟩
  have hink : ink (l.transfers.flatMap Transfer.written) = ink (splitLines text).flatten := layoutLines_ink true _ c r
  rw [placements_written]
  refine hink.trans ?_
  rw [splitLines, linesFrom_flatten, List.nil_append, ink, List.filter_filter]
  simp only [Bool.decide_and]

end Sys2Proof.Machine
end

section
/-! OBLIGATION. Decoding: an HD44780 byte by its highest set bit (30_encoding.md R100), every request word (R92 to R94), and the
encoder's forms back to their instructions (R91, R92, R96, R100, R101). -/

namespace Sys2Proof

/-! ## HD44780 bytes -/

/-- Below twice its weight, a bit is set exactly when the byte has at least its weight. -/
theorem getLsbD_iff_two_pow_le {b : Byte} {k : Nat} (h : b.toNat < 2 ^ (k + 1)) : b.getLsbD k = true ↔ 2 ^ k ≤ b.toNat := by
  constructor
  · intro hk
    by_contra hlt
    rw [BitVec.getLsbD, Nat.testBit_lt_two_pow (Nat.lt_of_not_le hlt)] at hk
    cases hk
  · exact fun hk => Nat.testBit_of_two_pow_le_and_two_pow_add_one_gt hk h

/-- Testing the highest bit a byte can have is comparing it with the bit's weight. -/
theorem ite_getLsbD {α : Type} {b : Byte} {k : Nat} {x u y v : α} (h : b.toNat < 2 ^ (k + 1))
    (hset : 2 ^ k ≤ b.toNat → x = u) (hclear : b.toNat < 2 ^ k → y = v) :
    (if b.getLsbD k then x else y) = if 2 ^ k ≤ b.toNat then u else v :=
  ite_congr (propext (getLsbD_iff_two_pow_le h)) hset fun hk => hclear (Nat.lt_of_not_le hk)

/-- The bits below the highest set bit are the byte less that bit's weight. -/
theorem extractLsb'_of_two_pow_le {b : Byte} {k : Nat} (h : 2 ^ k ≤ b.toNat) :
    b.extractLsb' 0 k = BitVec.ofNat k (b.toNat - 2 ^ k) := by
  refine BitVec.eq_of_toNat_eq ?_
  rw [BitVec.extractLsb'_toNat, BitVec.toNat_ofNat, Nat.shiftRight_zero, Nat.mod_eq_sub_mod h]

/-- Settles O3, bit by bit from the top: a byte below `2 ^ (k + 1)` has bit `k` exactly when it is at least `2 ^ k`. -/
theorem decodeLcdByte : Obligations.DecodeLcdByte := by
  intro sg b
  have below : ∀ {k : Nat} (f : BitVec k → Instr), 2 ^ k ≤ b.toNat →
      (.ok (f (b.extractLsb' 0 k)) : Except DecodeError Instr) = .ok (f (BitVec.ofNat k (b.toNat - 2 ^ k))) :=
    fun f h => by rw [extractLsb'_of_two_pow_le h]
  refine ite_getLsbD b.isLt (below .hdSetDdramAddress) fun h => ?_
  refine ite_getLsbD h (below .hdSetCgramAddress) fun h => ?_
  refine ite_getLsbD h (fun _ => rfl) fun h => ?_
  refine ite_getLsbD h (fun _ => rfl) fun h => ?_
  refine ite_getLsbD h (fun _ => rfl) fun h => ?_
  refine ite_getLsbD h (fun _ => rfl) fun h => ?_
  refine ite_getLsbD h (fun _ => rfl) fun h => ?_
  have lowest : 2 ^ 0 ≤ b.toNat ↔ b.toNat = 0x01 := by omega
  exact (ite_getLsbD h (fun _ => rfl) fun _ => rfl).trans (ite_congr (propext lowest) (fun _ => rfl) fun _ => rfl)

/-! ## Request words -/

theorem getLsbD_zero_eq_odd (b : Byte) : b.getLsbD 0 = (b.toNat % 2 == 1) := by
  rw [BitVec.getLsbD, Nat.testBit_zero]
  rfl

/-- Settles O2: `decodeRequest` reads the four bytes back, and each operation code selects its row of R92's table. -/
theorem decodeRequest_law : Obligations.DecodeRequest := by
  intro sg op a0 a1 rsv p
  obtain ⟨hop, ha0, ha1, hrsv⟩ := byteAt_word op a0 a1 rsv
  simp only [decode, decodeRequest, hop, ha0, ha1, hrsv, getLsbD_zero_eq_odd]
  refine ⟨fun h => if_pos h, ?_, ?_, ?_, ?_⟩
  · rintro rfl hunknown
    have known : ∀ n, op.toNat = n → BitVec.ofNat 8 n ∉ requestOps := by
      rintro n rfl
      rwa [BitVec.ofNat_toNat, BitVec.setWidth_eq]
    rw [if_neg (by decide)]
    split
    case h_19 => rfl
    all_goals
      rename_i h
      exact (known _ h (by decide)).elim
  · rintro rfl hknown hprint hglyph hp
    obtain ⟨b, bs, rfl⟩ := List.exists_cons_of_ne_nil hp
    simp only [requestOps, List.mem_cons, List.not_mem_nil, or_false] at hknown
    rcases hknown with rfl | rfl | rfl | rfl | rfl | rfl | rfl | rfl | rfl | rfl | rfl | rfl | rfl | rfl | rfl | rfl | rfl | rfl
    case inr.inr.inr.inr.inr.inl => exact absurd rfl hprint
    case inr.inr.inr.inr.inr.inr.inl => exact absurd rfl hglyph
    all_goals rfl
  · rintro rfl rfl hlen
    exact if_neg hlen
  · refine ⟨?_, ?_, ?_, ?_, ?_, ?print, ?glyph, ?_, ?_, ?_, ?_, ?_, ?_, ?_, ?_, ?_, ?_, ?_⟩
    case print =>
      rintro rfl rfl
      rfl
    case glyph =>
      rintro rfl rfl hlen
      exact if_pos hlen
    all_goals
      rintro rfl rfl rfl
      rfl

/-! ## The encoder's forms -/

/-- The bytes of the encoder's word (R91, R96). -/
theorem byteAt_requestWord (op a0 a1 : Byte) :
    byteAt (requestWord op a0 a1) 0 = op ∧ byteAt (requestWord op a0 a1) 8 = a0 ∧
      byteAt (requestWord op a0 a1) 16 = a1 ∧ byteAt (requestWord op a0 a1) 24 = 0x00 := by
  rw [requestWord_eq]
  exact byteAt_word op a0 a1 0x00

theorem boolArg_bit (on : Bool) : (boolArg on)[0] = on := by
  cases on <;> rfl

/-- The byte of an address instruction is its opcode's bit above the address (R100). -/
theorem toNat_twoPow_or_setWidth {k : Nat} (hk : k < 8) (addr : BitVec k) :
    (BitVec.twoPow 8 k ||| addr.setWidth 8).toNat = 2 ^ k + addr.toNat := by
  have hbyte : 2 ^ k + addr.toNat < 2 ^ 8 := by
    have := addr.isLt
    have : 2 ^ (k + 1) ≤ 2 ^ 8 := Nat.pow_le_pow_right (by decide) hk
    omega
  have haddr : addr.setWidth 8 = BitVec.ofNat 8 addr.toNat := (BitVec.ofNat_toNat 8 addr).symm
  rw [haddr, Machine.twoPow_or_ofNat hk addr.isLt, BitVec.toNat_ofNat, Nat.mod_eq_of_lt hbyte]

theorem decode_setCgramAddress (sg : SigMap) (addr : BitVec 6) :
    decode sg (.lcd (lcdOpcode .setCgramAddress ||| addr.setWidth 8)) = .ok (.hdSetCgramAddress addr) := by
  have hbyte : (lcdOpcode .setCgramAddress ||| addr.setWidth 8).toNat = 0x40 + addr.toNat :=
    toNat_twoPow_or_setWidth (by decide) addr
  rw [decodeLcdByte, hbyte, if_neg (by omega), if_pos (by omega), Nat.add_sub_cancel_left, BitVec.ofNat_toNat, BitVec.setWidth_eq]

theorem decode_setDdramAddress (sg : SigMap) (addr : BitVec 7) :
    decode sg (.lcd (lcdOpcode .setDdramAddress ||| addr.setWidth 8)) = .ok (.hdSetDdramAddress addr) := by
  have hbyte : (lcdOpcode .setDdramAddress ||| addr.setWidth 8).toNat = 0x80 + addr.toNat :=
    toNat_twoPow_or_setWidth (by decide) addr
  rw [decodeLcdByte, hbyte, if_pos (by omega), Nat.add_sub_cancel_left, BitVec.ofNat_toNat, BitVec.setWidth_eq]

/-- The bytes whose operands are single bits, every one of them (R100). -/
theorem decodeLcd_flags :
    (∀ id sh, decodeLcd (lcdOpcode .entryMode ||| entryModeValue id sh) = .ok (.hdEntryMode id sh)) ∧
      (∀ d c b, decodeLcd (lcdOpcode .displayCtrl ||| displayCtrlValue d c b) = .ok (.hdDisplayCtrl d c b)) ∧
      (∀ sc rl, decodeLcd (lcdOpcode .shift ||| shiftValue sc rl) = .ok (.hdShift sc rl)) ∧
      ∀ dl n f, decodeLcd (lcdOpcode .functionSet ||| functionSetValue dl n f) = .ok (.hdFunctionSet dl n f) := by
  decide

/-- A control byte with EN = 1 is the cycle of its RS and RW levels (R101). -/
theorem decodeBus_of_fits {sg : SigMap} {rs rw : Bool} {control data : Byte}
    (h : Laws.Encoding.Fits sg (.bus rs rw) (.bus control data)) :
    decodeBus sg control data = .ok (bif rs then bif rw then .busDataRead else .busDataWrite data
      else bif rw then .busBusyRead else .busInstructionWrite data) := by
  obtain ⟨hen, hrs, hrw⟩ := h
  simp only [decodeBus, hen, hrs, hrw]
  cases rs <;> cases rw <;> rfl

/-- Settles O1, by the three codings: a request's fields are read back from its word, an HD44780 byte's highest set bit is its
opcode, and a control byte of a lawful wiring has EN, RS and RW at the levels of its row. -/
theorem encodeDecode : Obligations.EncodeDecode := by
  intro sg i hsg hwf
  obtain ⟨hentry, hdisplay, hshift, hfunction⟩ := decodeLcd_flags
  cases i
  case defineGlyph index bitmap =>
    have hlen : bitmap.length = 8 := beq_iff_eq.1 hwf
    simp [encode, decode, decodeRequest, byteAt_requestWord, hlen]
  case setBlink | setCursorVisible | setDisplayVisible =>
    simp [encode, decode, decodeRequest, byteAt_requestWord, noPayload, boolArg_bit]
  case hdClear | hdHome => rfl
  case hdEntryMode id sh => exact hentry id sh
  case hdDisplayCtrl d c b => exact hdisplay d c b
  case hdShift sc rl => exact hshift sc rl
  case hdFunctionSet dl n f => exact hfunction dl n f
  case hdSetCgramAddress addr => exact decode_setCgramAddress sg addr
  case hdSetDdramAddress addr => exact decode_setDdramAddress sg addr
  case busInstructionWrite data => exact decodeBus_of_fits (Laws.Encoding.busInstructionWrite data sg hsg)
  case busBusyRead => exact decodeBus_of_fits (Laws.Encoding.busBusyRead sg hsg)
  case busDataWrite data => exact decodeBus_of_fits (Laws.Encoding.busDataWrite data sg hsg)
  case busDataRead => exact decodeBus_of_fits (Laws.Encoding.busDataRead sg hsg)
  all_goals simp [encode, decode, decodeRequest, byteAt_requestWord, noPayload]

/-- Settles O4: the words are closed, so the decoder is run on them. -/
theorem decodeWords : Obligations.DecodeWords := by
  unfold Obligations.DecodeWords
  decide

end Sys2Proof
end

section
/-! OBLIGATION. The HD44780 instructions (40_bus_primitives.md R140) and the bus cycles (30_encoding.md R101), run alone,
complete. -/

namespace Sys2Proof.Machine

/-- In an operational block, an instruction R277 admits in every `st.ctrl` runs its steps from the state with a new trace. -/
theorem exec_of_admits {s : State} {g : Geometry} (h : Admits s g) {i : Instr} (hi : needsReady i = false) {ms : List Micro}
    (hp : program s i g = .ok ms) : exec i s = .next (run ms (s.begin.bus s.shadow s.dirControl s.dirData [] 0)) := by
  rw [exec_eq_serve, hi, serve_admits h, hp]
  exact congrArg (fun t => Host.Outcome.next (run ms t)) (State.bus_start s.begin).symm

/-! ## HD44780 instructions -/

/-- The values of 10_state.md R28, added up bit by bit, are the encoder's. -/
theorem flagValues :
    (∀ id sh, entryModeValue id sh = (if id then 0x02 else 0) + (if sh then 0x01 else 0)) ∧
      (∀ d c b, displayCtrlValue d c b = (if d then 0x04 else 0) + (if c then 0x02 else 0) + (if b then 0x01 else 0)) ∧
      (∀ sc rl, shiftValue sc rl = (if sc then 0x08 else 0) + (if rl then 0x04 else 0)) ∧
      ∀ dl n f, functionSetValue dl n f = (if dl then 0x10 else 0) + (if n then 0x08 else 0) + (if f then 0x04 else 0) := by
  decide

/-- An HD44780 instruction is coded as its opcode's byte, and run as the command that sends it, in every `st.ctrl`. -/
structure IsCommand (i : Instr) (op : LcdOp) (v : Byte) : Prop where
  coded (sg : SigMap) : encode sg i = .lcd (lcdOpcode op ||| v)
  admitted : needsReady i = false
  steps (s : State) (g : Geometry) : program s i g = .ok (command s.cfg.sig op v ++ [.respond])

theorem isCommand_of_lcdOperands {i : Instr} {op : LcdOp} {v : Byte} (h : i.lcdOperands = some (op, v)) : IsCommand i op v := by
  obtain ⟨hentry, hdisplay, hshift, hfunction⟩ := flagValues
  cases i <;>
    simp only [Instr.lcdOperands, ← hentry, ← hdisplay, ← hshift, ← hfunction, BitVec.ofNat_toNat, reduceCtorEq] at h
  all_goals
    cases h
    exact ⟨fun _ => rfl, rfl, fun _ _ => rfl⟩

/-- Settles O56: each of the eight is one command, after a poll from idle lines or without one from any control byte. -/
theorem lcdInstructionResult : Obligations.LcdInstructionResult := by
  intro s g i op v b hi hb
  obtain ⟨hcoded, hadmitted, hsteps⟩ := isCommand_of_lcdOperands hi
  rw [hcoded] at hb
  cases hb
  constructor
  · intro a rest hs ha hv hf
    rw [exec_of_admits hs.toAdmits hadmitted (hsteps s g), hs.run_first_command ha hv hf, run_respond]
    rfl
  · intro hs hmode hf
    rw [exec_of_admits hs hadmitted (hsteps s g),
      run_command_timed (s := s.begin) (sg := s.cfg.sig) (tr := []) rfl op v hmode hf, run_respond]
    rfl

/-! ## Bus cycles -/

/-- From idle lines, an instruction-write cycle's events are `CMD(b)` (95_test_vectors.md section 0). -/
theorem rawCmd_idle {sg : SigMap} {h : Byte} (hl : h &&& lineMask sg = 0x00#8) (b : Byte) : rawCmd sg h b = cmdTrace sg h b := by
  have hrsrw : h &&& (sg.rs ||| sg.rw) = 0x00#8 := (disjoint_or.1 hl).1
  rw [rawCmd, cmdTrace, clear_of_disjoint hrsrw, clear_of_disjoint hl]

/-- A cycle that samples one byte: the EN pulse of R143 between steps that only drive the pins. -/
theorem run_sampled {s : State} {sg : SigMap} {p q : Pins} {v : Byte} {rest : List Byte} {before after : List Event}
    (hsg : s.cfg.sig = sg) {setup restore : List Micro} (hsetup : setup.all Micro.drives = true)
    (hrestore : restore.all Micro.drives = true) (hq : p.after setup = q) (hbefore : p.events setup = before)
    (hafter : q.events restore = after) (hen : q.shadow &&& sg.en = 0x00#8) (hv : s.inputs = v :: rest)
    (hf : NoFault s (before ++ [.wc (q.shadow ||| sg.en), .rd v, .wc q.shadow] ++ after)) (ms : List Micro) :
    run (setup ++ (readByte sg ++ (restore ++ ms))) (s.at p [] 0)
      = run ms ((s.pushOut v).at (q.after restore) (before ++ [.wc (q.shadow ||| sg.en), .rd v, .wc q.shadow] ++ after) 1) := by
  subst hsg hq hbefore hafter
  have hread := run_readBytes (s := s) (sg := s.cfg.sig) (dc := (p.after setup).dirControl) (dd := (p.after setup).dirData)
    (tr := p.events setup) (n := 0) rfl [v] hen hv hf.mono (restore ++ ms)
  have hrest := run_drives (s := s.pushOut v) (p := p.after setup) (n := 1) restore ms hrestore hf
  rw [run_drives setup _ hsetup hf.mono.mono, List.nil_append]
  exact hread.trans hrest

section
variable {s : State} {sg : SigMap} {h dc dd v : Byte} {rest : List Byte}

/-- One busy-flag read from idle lines (R139): RW is left high. -/
theorem run_busyCycle (hsg : s.cfg.sig = sg) (hd : sg.Disjoint) (hl : h &&& lineMask sg = 0x00#8) (hv : s.inputs = v :: rest)
    (hf : NoFault s (pollTrace sg h v)) (ms : List Micro) :
    run (busyCycle sg ++ ms) (s.bus h dc dd [] 0)
      = run ms ((s.pushOut v).bus (h ||| sg.rw) dc 0x00 (pollTrace sg h v) 1) := by
  rw [lineMask, disjoint_or, disjoint_or] at hl
  obtain ⟨⟨hrs, -⟩, hen⟩ := hl
  have low : h &&& ~~~sg.rs = h := clear_of_disjoint hrs
  have hrun := run_sampled (p := ⟨h, dc, dd⟩) (q := ⟨h ||| sg.rw, dc, 0xFF⟩)
    (before := [.wc h, .wc (h ||| sg.rw), .dir .data 0xFF]) (after := [.dir .data 0x00])
    (setup := [.signal sg.rs false, .signal sg.rw true, .dir .data 0xFF true])
    (restore := [.dir .data 0xFF false]) hsg rfl rfl
    (by simp only [Pins.after, Pins.step_signal, Pins.step_dataPort, maskBits_false, maskBits_true, low, if_true])
    (by simp only [Pins.events, Pins.event_signal, Pins.event_dataPort, Pins.step_signal, maskBits_false, maskBits_true, low,
      if_true, List.cons_append, List.nil_append])
    (by simp only [Pins.events, Pins.event_dataPort, Bool.false_eq_true, if_false, List.append_nil])
    (or_disjoint.2 ⟨hen, hd.rw_en⟩) hv hf ms
  rw [Pins.after, Pins.step_dataPort] at hrun
  exact hrun

/-- One data read from idle lines (R143), the lines brought back to idle. -/
theorem run_readCycle (hsg : s.cfg.sig = sg) (hd : sg.Disjoint) (hl : h &&& lineMask sg = 0x00#8) (hv : s.inputs = v :: rest)
    {tr : List Event} (htr : tr = [.wc (h ||| sg.rs), .wc (h ||| sg.rs ||| sg.rw), .dir .data 0xFF,
      .wc (h ||| sg.rs ||| sg.rw ||| sg.en), .rd v, .wc (h ||| sg.rs ||| sg.rw), .dir .data 0x00, .wc h])
    (hf : NoFault s tr) (ms : List Micro) :
    run (readCycles sg 1 ++ ms) (s.bus h dc dd [] 0) = run ms ((s.pushOut v).bus h dc 0x00 tr 1) := by
  subst htr
  have hidle : (h ||| sg.rs ||| sg.rw) &&& ~~~(lineMask sg) = h := by
    have hlines : (sg.rs ||| sg.rw) &&& ~~~(lineMask sg) = 0x00#8 := (or_disjoint.1 (BitVec.and_not_self (lineMask sg))).1
    rw [BitVec.or_assoc, BitVec.and_or_distrib_right, clear_of_disjoint hl, hlines, BitVec.or_zero]
  rw [lineMask, disjoint_or, disjoint_or] at hl
  obtain ⟨-, hen⟩ := hl
  have hrun := run_sampled (p := ⟨h, dc, dd⟩) (q := ⟨h ||| sg.rs ||| sg.rw, dc, 0xFF⟩)
    (before := [.wc (h ||| sg.rs), .wc (h ||| sg.rs ||| sg.rw), .dir .data 0xFF]) (after := [.dir .data 0x00, .wc h])
    (setup := [.signal sg.rs true, .signal sg.rw true, .dir .data 0xFF true])
    (restore := [.dir .data 0xFF false, .signal (lineMask sg) false]) hsg rfl rfl
    (by simp only [Pins.after, Pins.step_signal, Pins.step_dataPort, maskBits_true, if_true])
    (by simp only [Pins.events, Pins.event_signal, Pins.event_dataPort, Pins.step_signal, maskBits_true, if_true,
      List.cons_append, List.nil_append])
    (by simp only [Pins.events, Pins.event_signal, Pins.event_dataPort, Pins.step_dataPort, maskBits_false, hidle,
      Bool.false_eq_true, if_false, List.cons_append, List.nil_append])
    (or_disjoint.2 ⟨or_disjoint.2 ⟨hen, hd.rs_en⟩, hd.rw_en⟩) hv hf ms
  rw [Pins.after, Pins.after, Pins.after, Pins.step_dataPort, Pins.step_signal, maskBits_false, hidle] at hrun
  exact hrun

end

/-- Settles O57, cycle by cycle: from idle lines each is a run of pin steps, with one sample in a read cycle. -/
theorem busCycleResult : Obligations.BusCycleResult := by
  intro s g b v rest hs hsig hl hv sg h x rd
  have hd : sg.Disjoint := SigMap.wf_disjoint hsig
  refine ⟨fun hf => ?_, fun hready hf => ?_, fun hf => ?_, fun hf => ?_⟩
  · have hraw : NoFault s.begin (rawCmd sg h b) := by rw [rawCmd_idle hl]; exact hf
    rw [exec_of_admits hs rfl rfl, run_instructionCycle (s := s.begin) (sg := sg) (tr := []) rfl b hraw, run_respond,
      rawCmd_idle hl, clear_of_disjoint hl]
    rfl
  · rw [exec_of_ready ⟨hs, hready⟩ rfl rfl, run_busyCycle (s := s.begin) (sg := sg) rfl hd hl hv hf, run_respond]
    rfl
  · rw [exec_of_admits hs rfl rfl, run_writeCycles (s := s.begin) (sg := sg) (tr := []) rfl [b] hd hl (.inl rfl) hf, run_respond]
    rfl
  · rw [exec_of_admits hs rfl rfl, run_readCycle (s := s.begin) (sg := sg) rfl hd hl hv rfl hf, run_respond]
    rfl

end Sys2Proof.Machine
end

section
/-! OBLIGATION. What a response can hold (30_encoding.md R90, R110; 60_exceptions.md R270 to R273, R282). -/

namespace Sys2Proof.Machine

/-! ## How an instruction goes -/

/-- What the state checks refuse with: `ProtocolPrecondition` only a closed block, or a request that needs a Ready one. -/
theorem admission_some {needReady : Bool} {s : State} {e : Status} (h : admission needReady s = some e) :
    e = .busFault ∨ e = .protocolPrecondition ∧ (s.closed = true ∨ needReady = true) := by
  unfold admission at h
  split at h
  · cases h
    exact .inl rfl
  · split at h
    · cases h
      exact .inr ⟨rfl, .inl ‹_›⟩
    · split at h
      · cases h
        exact .inr ⟨rfl, .inr (Bool.and_eq_true_iff.1 ‹_›).1⟩
      · cases h

/-- The only error of an instruction's own rule is its range check's (60_exceptions.md R275). -/
theorem program_error {s : State} {i : Instr} {g : Geometry} {e : Status} (h : program s i g = .error e) : e = .rangeError := by
  cases i with
  | defineGlyph index bitmap =>
    rw [program, glyphSteps] at h
    split at h <;> cases h
    rfl
  | readRow row =>
    rw [program, readRowSteps] at h
    split at h <;> cases h
    rfl
  | _ => cases h

/-- Every way an instruction goes, in the order of R277: refused in ConfigError, by a state check or by its range check, or
run. -/
theorem exec_outcome {i : Instr} {s t : State} (h : exec i s = .next t) :
    (s.geom = none ∧ t = s.refused .configurationError) ∨
      ∃ g, s.geom = some g ∧ ((∃ e, admission (needsReady i) s = some e ∧ t = s.refused e) ∨
        admission (needsReady i) s = none ∧ ((program s i g = .error .rangeError ∧ t = s.refused .rangeError) ∨
          ∃ ms, program s i g = .ok ms ∧ t = run ms s.begin)) := by
  rw [exec_eq_serve] at h
  cases h
  unfold serve
  split
  · exact .inl ⟨‹_›, rfl⟩
  · rename_i g hg
    refine .inr ⟨g, hg, ?_⟩
    split
    · exact .inl ⟨_, ‹_›, rfl⟩
    · refine .inr ⟨‹_›, ?_⟩
      split
      · rename_i e hp
        cases program_error hp
        exact .inl ⟨hp, rfl⟩
      · exact .inr ⟨_, ‹_›, rfl⟩

/-! ## What a run answers -/

/-- Bus traffic reads no byte into `out` and answers nothing. -/
def Unanswered (s t : State) : Prop := t.out = s.out ∧ t.response = s.response

theorem Busied.unanswered {s t : State} (h : Busied s t) : Unanswered s t :=
  ⟨(congrArg State.out h :), (congrArg State.response h :)⟩

/-- A primitive run as a step. -/
theorem Both.ends_plain {P Q : State → Prop} {r : Except State State} (h : Both P r) (hPQ : ∀ t, P t → Q t) :
    Ends Q (plain r) := by
  cases r <;> exact hPQ _ h

theorem Ends.mono {P Q : State → Prop} {r : Except State Done} (h : Ends P r) (hPQ : ∀ t, P t → Q t) : Ends Q r := by
  rcases r with t | t | ⟨m, t⟩ <;> exact hPQ t h

/-- Only a sample reads a byte, and only `respond` answers. -/
theorem perform_unanswered {m : Micro} (hs : m ≠ .sample) (hr : m ≠ .respond) (s : State) :
    Ends (Unanswered s) (perform m s) := by
  cases m with
  | signal m on => exact (setSignal_busied m on s).ends_plain fun _ => Busied.unanswered
  | dir p m input => exact (setDir_busied p m input s).ends_plain fun _ => Busied.unanswered
  | dataOut b => exact (portOut_busied .data b s).ends_plain fun _ => Busied.unanswered
  | wait => exact (waitReady_busied s).mono fun _ => Busied.unanswered
  | poll n => exact (busyPoll_busied _ n s).mono fun _ => Busied.unanswered
  | pos k p => cases k <;> exact ⟨rfl, rfl⟩
  | sample => exact absurd rfl hs
  | respond => exact absurd rfl hr
  | _ => exact ⟨rfl, rfl⟩

/-- A sample answers nothing either. -/
theorem perform_sample_response (s : State) : Ends (fun t => t.response = s.response) (perform .sample s) := by
  obtain ⟨herror, hok⟩ := portIn_busied s
  rw [perform]
  split <;> rename_i h
  · exact (herror _ h).unanswered.2
  · exact (hok _ _ h).unanswered.2

/-- A run answers OK, or BusFault without bytes. -/
def OkOrBusFault (s : State) : Prop := ∀ r, s.response = some r → r.status = .ok ∨ r = { status := .busFault, data := [] }

theorem okOrBusFault_begin (s : State) : OkOrBusFault s.begin := fun _ hr => by cases hr

theorem okOrBusFault_run (ms : List Micro) {s : State} (h : OkOrBusFault s) : OkOrBusFault (run ms s) := by
  refine run_keeps ms s h (fun m _ t ht => ?_) (fun t _ r hr => ?_) (fun _ _ ht => ht)
  · have keeps : ∀ u : State, u.response = t.response → OkOrBusFault u := fun u hu r hr => ht r (hu ▸ hr)
    by_cases hsample : m = .sample
    · subst hsample
      exact (perform_sample_response t).mono keeps
    · by_cases hrespond : m = .respond
      · subst hrespond
        intro r hr
        cases hr
        exact .inl rfl
      · exact (perform_unanswered hsample hrespond t).mono fun u hu => keeps u hu.2
  · cases hr
    exact .inr rfl

/-- No byte was read, and none is in the response. -/
structure Byteless (s : State) : Prop where
  out : s.out = []
  response : ∀ r, s.response = some r → r.data = []

theorem byteless_begin (s : State) : Byteless s.begin := ⟨rfl, fun _ hr => by cases hr⟩

theorem byteless_run {ms : List Micro} (hms : .sample ∉ ms) {s : State} (h : Byteless s) : Byteless (run ms s) := by
  refine run_keeps ms s h (fun m hm t ht => ?_) (fun t _ => ⟨rfl, fun r hr => ?_⟩) (fun _ _ ht => ⟨ht.out, ht.response⟩)
  · by_cases hrespond : m = .respond
    · subst hrespond
      refine ⟨rfl, fun r hr => ?_⟩
      cases hr
      exact ht.out
    · have hsample : m ≠ .sample := fun he => hms (he ▸ hm)
      exact (perform_unanswered hsample hrespond t).mono fun u ⟨hout, hresponse⟩ =>
        ⟨hout.trans ht.out, fun r hr => ht.response r (hresponse ▸ hr)⟩
  · cases hr
    rfl

/-! ## Requests that read no byte -/

section
variable (sg : SigMap)

@[simp] theorem sample_notMem_command (op : LcdOp) (v : Byte) : .sample ∉ command sg op v := by
  simp [command, instructionCycle]

@[simp] theorem sample_notMem_writeBlock (bs : List Byte) : .sample ∉ writeBlock sg bs := by
  cases bs <;> simp [writeBlock, writeCycles, blockByte]

@[simp] theorem sample_notMem_transferSteps (g : Geometry) (t : Transfer) : .sample ∉ transferSteps sg g t := by
  cases t <;> simp [transferSteps, addressStep]

@[simp] theorem sample_notMem_setWiper (k : Pot) (p target : Nat) : .sample ∉ setWiper sg k p target := by
  unfold setWiper
  dsimp only
  split <;> simp [burst, burstPulse]

@[simp] theorem sample_notMem_potPowerOn (k : Pot) (p : Nat) : .sample ∉ potPowerOn sg k p := by
  simp [potPowerOn]

@[simp] theorem sample_notMem_powerOffBody : .sample ∉ powerOffBody sg := by
  simp [powerOffBody, potPowerOff]

end

/-- Of the requests only READ_ROW samples the data port (42_text_and_memory.md R216). -/
theorem sample_notMem_program {s : State} {i : Instr} {g : Geometry} {ms : List Micro} (hi : i.isRequest = true)
    (hrow : ∀ row, i ≠ .readRow row) (h : program s i g = .ok ms) : .sample ∉ ms := by
  cases i with
  | readRow row => exact absurd rfl (hrow row)
  | defineGlyph index bitmap =>
    rw [program, glyphSteps] at h
    split at h <;> cases h
    simp [restoreCursor]
  | powerOn => cases h; simp [powerOnSteps, lcdPortsOut, initProtocol, initCommand]
  | close => cases h; simp [closeSteps]
  | print text => cases h; simp [printSteps]
  | clear | home => cases h; simp [homingSteps]
  | setCursor col row => cases h; simp [setCursorSteps]
  | setBlink on | setCursorVisible on | setDisplayVisible on => cases h; simp [toggleSteps]
  | contrastInc | backlightInc => cases h; simp [inc, stepPulse]
  | contrastDec | backlightDec => cases h; simp [dec, stepPulse]
  | powerOff | setContrast | setBacklight => cases h; simp
  | _ => cases hi

/-- A lifecycle request needs no Ready block (60_exceptions.md R277). -/
theorem needsReady_of_lifecycle {i : Instr} (h : i.lifecycle = true) : needsReady i = false := by
  cases i with
  | powerOn | powerOff | close => rfl
  | _ => cases h

/-- Settles O12, by how the instruction went: a refusal's status is that of the check not passed, and a run answers OK, with the
bytes it sampled, or BusFault. -/
theorem responseLaw : Obligations.ResponseLaw := by
  intro i s t r h hr
  rcases exec_outcome h with ⟨hg, rfl⟩ | ⟨g, hg, ⟨e, ha, rfl⟩ | ⟨-, ⟨-, rfl⟩ | ⟨ms, hp, rfl⟩⟩⟩
  · cases hr
    exact ⟨nofun, iff_of_true rfl hg, fun _ => rfl, fun _ hd => absurd rfl hd, nofun, fun _ _ => nofun⟩
  · cases hr
    rcases admission_some ha with rfl | ⟨rfl, hwhy⟩
    · exact ⟨nofun, by simp [hg], fun _ => rfl, fun _ hd => absurd rfl hd, nofun, fun _ _ => nofun⟩
    · refine ⟨nofun, by simp [hg], fun _ => rfl, fun _ hd => absurd rfl hd, fun _ => rfl, fun hi hclosed => ?_⟩
      rw [hclosed, needsReady_of_lifecycle hi] at hwhy
      exact absurd hwhy (by decide)
  · cases hr
    exact ⟨nofun, by simp [hg], fun _ => rfl, fun _ hd => absurd rfl hd, nofun, fun _ _ => nofun⟩
  · have hbytes : i.isRequest = true → r.data ≠ [] → ∃ row, i = .readRow row := by
      intro hi hd
      by_contra hrow
      have hsample := sample_notMem_program hi (fun row he => hrow ⟨row, he⟩) hp
      exact hd ((byteless_run hsample (byteless_begin s)).response r hr)
    rcases okOrBusFault_run ms (okOrBusFault_begin s) r hr with hok | rfl
    · rw [hok]
      exact ⟨nofun, by simp [hg], fun hne => absurd rfl hne, hbytes, nofun, fun _ _ => nofun⟩
    · exact ⟨nofun, by simp [hg], fun _ => rfl, hbytes, nofun, fun _ _ => nofun⟩

end Sys2Proof.Machine
end

section
/-! OBLIGATION. The toggle engine (40_bus_primitives.md R136, R137): one transaction of the whole byte, made from a copy written
before it. -/

namespace Sys2Proof.Machine

/-- A transaction by the fault draw (R135): it succeeds while none is to fail, or while some are still to succeed. -/
theorem transact_by_draw (t : Tx) (e : Event) (s : State) :
    (s.faultIn = none → transact t e s = .ok (s.emit e)) ∧
      (∀ n, s.faultIn = some (n + 1) → transact t e s = .ok ((s.setFaultIn (some n)).emit e)) ∧
      (s.faultIn = some 0 → transact t e s = .error (s.emit (.fails t))) := by
  refine ⟨fun h => ?_, fun n h => ?_, fun h => ?_⟩ <;> rw [transact, h]

/-- The bits of the mask are those just set or cleared. -/
theorem maskBits_and_self (mask : Byte) (on : Bool) (v : Byte) :
    maskBits mask on v &&& mask = if on then mask else 0x00#8 := by
  cases on
  · exact maskBits_false_and_of_covers v (BitVec.and_not_self mask)
  · exact maskBits_true_and_self mask v

/-- The bits outside the mask are kept. -/
theorem maskBits_and_not (mask : Byte) (on : Bool) (v : Byte) : maskBits mask on v &&& ~~~mask = v &&& ~~~mask :=
  maskBits_and_of_disjoint on v (BitVec.and_not_self mask)

/-- Settles O33: the mask's bits, and the one transaction by the fault draw, from the shadow already written. -/
theorem setSignal_law : Obligations.SetSignal := by
  intro s mask on v
  exact ⟨maskBits_and_not mask on s.shadow, maskBits_and_self mask on s.shadow,
    transact_by_draw (.wc v) (.wc v) (s.setShadow v)⟩

/-- Settles O34: the one transaction by the fault draw, from the copy already written, for each port. -/
theorem setDir_law : Obligations.SetDir := by
  constructor
  · intro s mask input v
    exact transact_by_draw (.dir .control v) (.dir .control v) (s.setDirOf .control v)
  · intro s mask input v
    refine ⟨?_, transact_by_draw (.dir .data v) (.dir .data v) (s.setDirOf .data v)⟩
    rintro rfl
    exact maskBits_all input s.dirData

end Sys2Proof.Machine
end

section
/-! OBLIGATION. The requests that send one command (41_lcd_control.md R176, R177, R179 to R182), READ_ROW and PRINT
(42_text_and_memory.md R210, R216) complete. -/

namespace Sys2Proof.Machine

/-! ## One command -/

/-- CLEAR and HOME in a Ready idle block (R176, R177): one polled command, and the cursor homed. -/
theorem exec_homing {s : State} {g : Geometry} {a : Answers} {rest : List Byte} (hs : ReadyIdle s g) (ha : a.Lawful s.cfg)
    (hv : s.inputs = a.bytes ++ rest) {i : Instr} {op : LcdOp} (hi : needsReady i = true)
    (hp : program s i g = .ok (homingSteps s.cfg.sig op))
    (hf : NoFault s (polledCmd s.cfg.sig s.shadow a (lcdOpcode op ||| 0x00))) :
    exec i s = .next (((s.record op 0x00).setCursor 0 0).completed s.shadow s.dirControl 0x00
      (polledCmd s.cfg.sig s.shadow a (lcdOpcode op ||| 0x00)) a.bytes.length []) := by
  rw [exec_of_ready hs.toReady hi hp, homingSteps, hs.run_first_command ha hv hf, run_cursor, run_respond]
  rfl

/-- Settles O44: both are one polled command and the cursor homed. -/
theorem clearHomeResult : Obligations.ClearHomeResult := fun _ _ _ _ hs ha hv =>
  ⟨exec_homing hs ha hv (op := .clear) rfl rfl, exec_homing hs ha hv (op := .home) rfl rfl⟩

/-- A toggle in a Ready idle block (R179): one polled command with the new value. -/
theorem exec_toggle {s : State} {g : Geometry} {a : Answers} {rest : List Byte} (hs : ReadyIdle s g) (ha : a.Lawful s.cfg)
    (hv : s.inputs = a.bytes ++ rest) {i : Instr} {bit : Byte} {on : Bool} (hi : needsReady i = true)
    (hp : program s i g = .ok (toggleSteps s bit on))
    (hf : NoFault s (polledCmd s.cfg.sig s.shadow a (0x08 ||| toggled bit on s.cs.displayCtrl))) :
    exec i s = .next ((s.record .displayCtrl (toggled bit on s.cs.displayCtrl)).completed s.shadow s.dirControl 0x00
      (polledCmd s.cfg.sig s.shadow a (0x08 ||| toggled bit on s.cs.displayCtrl)) a.bytes.length []) := by
  rw [exec_of_ready hs.toReady hi hp, toggleSteps, hs.run_first_command (op := .displayCtrl) ha hv hf, run_respond]
  rfl

/-- Settles O47: each of the three is a toggle of its own bit. -/
theorem toggleResult : Obligations.ToggleResult := by
  intro s g a rest on hs ha hv x hx v hf
  simp only [List.mem_cons, List.not_mem_nil, or_false] at hx
  rcases hx with rfl | rfl | rfl <;> exact exec_toggle hs ha hv rfl rfl hf

/-! ## READ_ROW -/

/-- Settles O51: a polled command, a polled read block and the polled command that restores the cursor's address (R183). -/
theorem readRowResult : Obligations.ReadRowResult := by
  intro s g row vs a1 a2 a3 rest hs hg hcol hrow hin hlen ha1 ha2 ha3 hv sg h tr hf
  obtain ⟨k, hk⟩ : ∃ k, g.cols = k + 1 := ⟨g.cols - 1, by have := hg.1; omega⟩
  have hprogram : program s (.readRow row) g = .ok
      (command sg .setDdramAddress (ddram g 0 row.toNat) ++ (.wait :: readCycles sg vs.length)
        ++ command sg .setDdramAddress (ddram g s.col s.row) ++ [.respond]) := by
    rw [program, readRowSteps, if_neg (by omega), hlen, hk]
    rfl
  have hd := SigMap.wf_disjoint hs.sig
  have hv1 : s.inputs = a1.bytes ++ (a2.bytes ++ (vs ++ (a3.bytes ++ rest))) := by rw [hv]; simp
  have hv2 : s.inputs.drop a1.bytes.length = a2.bytes ++ (vs ++ (a3.bytes ++ rest)) := by rw [hv]; simp
  have hv3 : s.inputs.drop (a1.bytes.length + a2.bytes.length) = vs ++ (a3.bytes ++ rest) := by
    rw [← List.drop_drop, hv2, List.drop_left]
  have hv4 : s.inputs.drop (a1.bytes.length + a2.bytes.length + vs.length) = a3.bytes ++ rest := by
    rw [← List.drop_drop, hv3, List.drop_left]
  simp only [tr, ← setDdramAddress_or_ddram hg hg.1 hin, ← setDdramAddress_or_ddram hg hcol hrow, ← List.append_assoc] at hf ⊢
  rw [exec_of_ready hs.toReady rfl hprogram, List.append_assoc, List.append_assoc,
    hs.run_first_command ha1 hv1 hf.mono.mono.mono, List.cons_append,
    run_wait_polled (s := s.begin.record _ _) (sg := sg) (a := a2) rfl hs.mode hd hs.lines ha2 hv2 hf.mono.mono,
    run_readCycles (s := s.begin.record _ _) (sg := sg) rfl vs hd hs.lines rfl hv3 hf.mono,
    run_command_polled (s := (s.begin.record _ _).pushAll vs) (sg := sg) (a := a3) rfl _ _ hs.mode hd hs.lines ha3 hv4 hf,
    run_respond, List.length_append, List.length_append, List.length_append]
  rfl

/-! ## PRINT -/

/-- The state once transfers have sent their addresses: only SET_DDRAM_ADDRESS's slot is new. -/
def State.addressed (s : State) (g : Geometry) (ts : List Transfer) : State :=
  { s with cs := { s.cs with setDdramAddress := lastAddress g s.cs.setDdramAddress ts } }

/-- The transfers of a layout, one poll's answers for each but the empty blocks (R142, R210). -/
theorem run_transfers {s : State} {sg : SigMap} {g : Geometry} {h dc : Byte} (hsg : s.cfg.sig = sg) (hg : g.wf)
    (hm : s.waitMode = .busyPoll) (hd : sg.Disjoint) (hl : h &&& lineMask sg = 0x00#8) (ms : List Micro) {rest : List Byte}
    {ts : List Transfer} (hts : ∀ x ∈ ts, ∀ a b, x = .address a b → a < g.cols ∧ b < g.rows) :
    ∀ (as : List Answers) (tr : List Event) (n : Nat), as.length = polledTransfers ts → (∀ a ∈ as, a.Lawful s.cfg) →
      s.inputs.drop n = as.flatMap Answers.bytes ++ rest → NoFault s (tr ++ transfersTrace sg g h ts as) →
      run (ts.flatMap (transferSteps sg g) ++ ms) (s.bus h dc 0x00 tr n)
        = run ms ((s.addressed g ts).bus h dc 0x00 (tr ++ transfersTrace sg g h ts as)
            (n + (as.flatMap Answers.bytes).length)) := by
  induction ts generalizing s with
  | nil =>
    intro as tr n hlen _ _ _
    obtain rfl : as = [] := List.length_eq_zero_iff.1 hlen
    simp only [transfersTrace, List.append_nil]
    rfl
  | cons x ts ih =>
    intro as tr n hlen has hv hf
    have hts' := fun y hy => hts y (List.mem_cons_of_mem _ hy)
    rw [List.flatMap_cons, List.append_assoc]
    cases x with
    | address c r =>
      obtain _ | ⟨a, as⟩ := as
      · simp [polledTransfers] at hlen
      · obtain ⟨hc, hr⟩ := hts _ List.mem_cons_self c r rfl
        rw [List.flatMap_cons, List.append_assoc] at hv
        rw [transfersTrace, ← setDdramAddress_or_ddram hg hc hr] at hf ⊢
        rw [← List.append_assoc] at hf
        rw [transferSteps, addressStep, run_command_polled hsg .setDdramAddress _ hm hd hl (has a List.mem_cons_self) hv hf.mono,
          ih (s := s.record .setDdramAddress (ddram g c r)) hsg hm hts' as _ _ (by simpa [polledTransfers] using hlen)
            (fun b hb => has b (List.mem_cons_of_mem _ hb)) (by rw [State.record_inputs, ← List.drop_drop, hv, List.drop_left]) hf,
          List.append_assoc, List.flatMap_cons, List.length_append, Nat.add_assoc]
        rfl
    | block bs =>
      obtain _ | ⟨b, bs⟩ := bs
      · exact ih hsg hm hts' as tr n (by simpa [polledTransfers] using hlen) has hv hf
      · obtain _ | ⟨a, as⟩ := as
        · simp [polledTransfers] at hlen
        · rw [List.flatMap_cons, List.append_assoc] at hv
          rw [transfersTrace] at hf ⊢
          rw [← List.append_assoc] at hf
          rw [transferSteps, run_writeBlock_polled hsg b bs hm hd hl (has a List.mem_cons_self) hv hf.mono,
            ih hsg hm hts' as _ _ (by simpa [polledTransfers] using hlen) (fun b hb => has b (List.mem_cons_of_mem _ hb))
              (by rw [← List.drop_drop, hv, List.drop_left]) hf,
            List.append_assoc, List.flatMap_cons, List.length_append, Nat.add_assoc]
          rfl

/-- Settles O48: the transfers of the layout, whose addresses are all on the display, and the cursor at their end. -/
theorem printResult : Obligations.PrintResult := by
  intro s g text as rest hs hg hcol hrow l hlen has hv hf
  obtain ⟨-, -, -, -, haddresses⟩ := printLandsOnDisplay g text s.col s.row hcol hrow
  have hrun := run_transfers (s := s.begin) (dc := s.dirControl) rfl hg hs.mode (SigMap.wf_disjoint hs.sig) hs.lines
    [.cursor l.col l.row, .respond] haddresses as [] 0 hlen has hv hf
  rw [Nat.zero_add] at hrun
  rw [exec_of_ready hs.toReady rfl rfl, printSteps, hs.data]
  exact congrArg Host.Outcome.next hrun

end Sys2Proof.Machine
end

section
/-! SUPPORT. The busy poll (40_bus_primitives.md R139) iteration by iteration, over the answers the block hears, listed or free
values: what it leaves after each, and how its test goes on. -/

namespace Sys2Proof.Machine

/-! ## The answers heard -/

/-- The next answers of `PortIn(1)` are these bytes, in order (10_state.md R45; log entry 6). -/
def Hears : State → List Byte → Prop
  | _, [] => True
  | s, v :: vs => nextInput s = v ∧ Hears s.takeInput vs

/-- Only the answers listed and the number of reads made matter. -/
theorem Hears.congr {s t : State} {vs : List Byte} (h : Hears s vs) (hin : t.inputs = s.inputs) (hreads : t.reads = s.reads) :
    Hears t vs := by
  induction vs generalizing s t with
  | nil => trivial
  | cons v vs ih =>
    obtain ⟨hv, hvs⟩ := h
    exact ⟨by rw [← hv, nextInput, nextInput, hin, hreads],
      ih hvs (by rw [State.takeInput_inputs, State.takeInput_inputs, hin]) (by rw [State.takeInput_reads, State.takeInput_reads, hreads])⟩

/-- The listed answers are heard first. -/
theorem hears_listed {s : State} {vs rest : List Byte} (h : s.inputs = vs ++ rest) : Hears s vs := by
  induction vs generalizing s with
  | nil => trivial
  | cons v vs ih => exact ⟨by rw [nextInput, h]; rfl, ih (by rw [State.takeInput_inputs, h]; rfl)⟩

/-- Past the list the next answer is the free value. -/
theorem hears_free {s : State} {vs : List Byte} (h : s.inputs = vs) : Hears s (vs ++ [Config.portIn (s.reads + vs.length)]) := by
  induction vs generalizing s with
  | nil => exact ⟨by rw [nextInput, h]; rfl, trivial⟩
  | cons v vs ih =>
    refine ⟨by rw [nextInput, h], ?_⟩
    have hrest := ih (s := s.takeInput) (by rw [State.takeInput_inputs, h]; rfl)
    rwa [State.takeInput_reads, Nat.add_assoc, Nat.add_comm 1] at hrest

/-! ## One iteration -/

/-- Bus traffic after bus traffic. -/
theorem State.bus_bus (s : State) (sh dc dd sh' dc' dd' : Byte) (tr tr' : List Event) (n n' : Nat) :
    (s.bus sh dc dd tr n).bus sh' dc' dd' tr' n' = s.bus sh' dc' dd' (tr ++ tr') (n + n') := by
  have hfault : (s.faultIn.map (fun k => k - transactions tr)).map (fun k => k - transactions tr')
      = s.faultIn.map (fun k => k - transactions (tr ++ tr')) := by
    rw [Option.map_map, transactions_append]
    congr 1
    funext k
    simp only [Function.comp_apply]
    omega
  simp only [State.bus, hfault, List.append_assoc, List.drop_drop, Nat.add_assoc]

/-- What may be made after some traffic may be made after it still. -/
theorem NoFault.after_bus {s : State} {tr tr' : List Event} (h : NoFault s (tr ++ tr')) (sh dc dd : Byte) (n : Nat) :
    NoFault (s.bus sh dc dd tr n) tr' := by
  intro k hk
  obtain ⟨j, hj, rfl⟩ := Option.map_eq_some_iff.1 hk
  have := h j hj
  rw [transactions_append] at this
  omega

/-- The state after an iteration that reads `v`. -/
def State.iterate (s : State) (v : Byte) : State :=
  s.bus (polled s.cfg.sig s.shadow) s.dirControl 0x00 (pollEvents s.cfg.sig s.shadow v) 1

/-- `PortIn(1)` answers the next byte, listed or free. -/
theorem portIn_first {s : State} {sh dc dd : Byte} {tr : List Event} {v : Byte} (hv : nextInput s = v)
    (h : NoFault s (tr ++ [.rd v])) : portIn (s.bus sh dc dd tr 0) = .ok (v, s.bus sh dc dd (tr ++ [.rd v]) 1) := by
  have hread : nextInput (s.bus sh dc dd tr 0) = v := hv
  unfold portIn
  rw [hread, transact_bus (s := s) _ _ rfl h]
  rfl

/-- The data port switched whole (40_bus_primitives.md R137). -/
theorem turn_bus {s : State} {sh dc dd d : Byte} {tr : List Event} {n : Nat} {input : Bool} (hd : (if input then 0xFF else 0x00) = d)
    (h : NoFault s (tr ++ [.dir .data d])) :
    setDir .data 0xFF input (s.bus sh dc dd tr n) = .ok (s.bus sh dc d (tr ++ [.dir .data d]) n) := by
  rw [← hd, ← maskBits_all input dd] at h ⊢
  exact setDir_data_bus _ _ h

/-- One iteration that does not fault, whatever byte it reads (R139). -/
theorem pollOnce_iterate {s : State} {v : Byte} (hv : nextInput s = v) (hf : NoFault s (pollEvents s.cfg.sig s.shadow v)) :
    pollOnce s = .ok (v, s.iterate v) := by
  have hf' : NoFault s ([] ++ [_] ++ [_] ++ [_] ++ [_] ++ [_] ++ [_] ++ [_]) := hf
  rw [polled] at hf'
  rw [← congrArg pollOnce s.bus_start]
  simp only [pollOnce, bind, Except.bind, State.bus_cfg, setSignal_bus _ _ hf'.mono.mono.mono.mono.mono.mono,
    setSignal_bus _ _ hf'.mono.mono.mono.mono.mono, turn_bus (input := true) (d := 0xFF) rfl hf'.mono.mono.mono.mono,
    setSignal_bus _ _ hf'.mono.mono.mono, portIn_first hv hf'.mono.mono, setSignal_bus _ _ hf'.mono,
    turn_bus (input := false) (d := 0x00) rfl hf']
  rfl

/-! ## The test -/

/-- What the poll does after an iteration that reads BF set: it goes on, or with no answer listed it holds (log entry 5). -/
def goOn (fuel n : Nat) : State → Except State Done :=
  match fuel with
  | 0 => fun s => .ok (.hold (.poll (n + 1)) s)
  | fuel + 1 => busyPoll fuel (n + 1)

theorem busyPoll_of_error {fuel n : Nat} {s t : State} (h : pollOnce s = .error t) : busyPoll fuel n s = .error t := by
  cases fuel <;> rw [busyPoll, h]

theorem busyPoll_of_ok {fuel n : Nat} {s t : State} {v : Byte} (h : pollOnce s = .ok (v, t)) :
    busyPoll fuel n s = pollTest n (goOn fuel n) v t := by
  cases fuel <;> rw [busyPoll, h] <;> rfl

section
variable {n : Nat} {again : State → Except State Done} {v : Byte} {s : State}

theorem pollTest_clear (hv : busyFlag s.cfg v = false) : pollTest n again v s = .ok (.done s) := by
  rw [pollTest, hv]
  rfl

theorem pollTest_deadline (hv : busyFlag s.cfg v = true) {k : Nat} (hk : s.cfg.pollDeadline = some k) (hn : k ≤ n + 1) :
    pollTest n again v s = .error (s.emit .deadline) := by
  rw [pollTest, hv, deadlineReached, hk]
  simp [hn]

theorem pollTest_again (hv : busyFlag s.cfg v = true) (hdead : ∀ k, s.cfg.pollDeadline = some k → n + 1 < k) :
    pollTest n again v s = again s := by
  have hnot : deadlineReached s.cfg (n + 1) = false := by
    unfold deadlineReached
    split
    · rfl
    · exact decide_eq_false (Nat.not_le.2 (hdead _ ‹_›))
  rw [pollTest, hv, hnot]
  rfl

end

/-! ## Iterations in a row -/

/-- The state after iterations that read `vs`. -/
def State.iterates (s : State) (vs : List Byte) : State := vs.foldl State.iterate s

@[simp] theorem State.iterates_cfg (s : State) (vs : List Byte) : (s.iterates vs).cfg = s.cfg := by
  induction vs generalizing s with
  | nil => rfl
  | cons v vs ih => exact ih (s.iterate v)

/-- The events of iterations in a row from the control byte `x`. -/
def iterationEvents (sg : SigMap) (x : Byte) : List Byte → List Event
  | [] => []
  | v :: vs => pollEvents sg x v ++ iterationEvents sg (polled sg x) vs

/-- A poll goes through answers with BF set, its deadline not reached, to the test of the answer after them. -/
theorem busyPoll_iterates {s : State} {busy : List Byte} {v : Byte} (fuel n : Nat) (hh : Hears s (busy ++ [v]))
    (hset : ∀ b ∈ busy, busyFlag s.cfg b = true) (hdead : ∀ k, s.cfg.pollDeadline = some k → n + busy.length < k)
    (hf : NoFault s (iterationEvents s.cfg.sig s.shadow (busy ++ [v]))) :
    busyPoll (busy.length + fuel) n s
      = pollTest (n + busy.length) (goOn fuel (n + busy.length)) v (s.iterates (busy ++ [v])) := by
  induction busy generalizing s n with
  | nil =>
    rw [iterationEvents.eq_def] at hf
    rw [List.length_nil, Nat.zero_add, busyPoll_of_ok (pollOnce_iterate hh.1 hf.mono)]
    rfl
  | cons b bs ih =>
    obtain ⟨hb, hbs⟩ := hh
    have hlater : Hears (s.iterate b) (bs ++ [v]) := hbs.congr rfl rfl
    rw [List.length_cons, Nat.add_right_comm, busyPoll_of_ok (pollOnce_iterate hb hf.mono),
      pollTest_again (s := s.iterate b) (hset b List.mem_cons_self)
        (fun k hk => by have := hdead k hk; rw [List.length_cons] at this; omega)]
    have hnext := ih (n + 1) hlater (fun c hc => hset c (List.mem_cons_of_mem _ hc))
      (fun k hk => by have := hdead k hk; rw [List.length_cons] at this; omega) (hf.after_bus _ _ _ _)
    rw [Nat.add_right_comm n 1] at hnext
    exact hnext

/-- Iterations in a row from a control byte `x` from which one leaves `h` with RW high. -/
theorem iterates_from {s : State} {h : Byte} (hd : s.cfg.sig.Disjoint) (hl : h &&& lineMask s.cfg.sig = 0x00#8)
    (hx : polled s.cfg.sig s.shadow = h ||| s.cfg.sig.rw) (v : Byte) (vs : List Byte) :
    iterationEvents s.cfg.sig s.shadow (v :: vs)
        = pollEvents s.cfg.sig s.shadow v ++ vs.flatMap (repollTrace s.cfg.sig h) ∧
      s.iterates (v :: vs) = s.bus (h ||| s.cfg.sig.rw) s.dirControl 0x00
        (pollEvents s.cfg.sig s.shadow v ++ vs.flatMap (repollTrace s.cfg.sig h)) (vs.length + 1) := by
  induction vs generalizing s v with
  | nil => exact ⟨rfl, by rw [← hx]; exact congrArg (fun tr => s.bus _ _ _ tr 1) (List.append_nil _).symm⟩
  | cons w ws ih =>
    obtain ⟨-, hagain, -, hevents⟩ := polled_polled hd hl
    have hshadow : (s.iterate v).shadow = h ||| s.cfg.sig.rw := hx
    obtain ⟨hev, hst⟩ := ih (s := s.iterate v) hd hl (by rw [hshadow]; exact hagain) w
    have htail : pollEvents (s.iterate v).cfg.sig (s.iterate v).shadow w ++ ws.flatMap (repollTrace s.cfg.sig h)
        = (w :: ws).flatMap (repollTrace s.cfg.sig h) := by
      rw [hshadow, List.flatMap_cons, ← hevents]
      rfl
    constructor
    · rw [← htail]
      exact congrArg (pollEvents s.cfg.sig s.shadow v ++ ·) hev
    · rw [← htail, List.length_cons, Nat.add_comm _ 1, ← State.bus_bus]
      exact hst

end Sys2Proof.Machine
end

section
/-! OBLIGATION. Waiting (40_bus_primitives.md R138, R139, R141, R146): a poll that returns, that reaches its deadline, and that
is held and goes on at the next step. -/

namespace Sys2Proof.Machine

/-! ## How a run goes through its first step -/

theorem run_error {m : Micro} {ms : List Micro} {s t : State} (h : perform m s = .error t) : run (m :: ms) s = onBusFault t := by
  rw [run, h]

theorem run_hold {m m' : Micro} {ms : List Micro} {s t : State} (h : perform m s = .ok (.hold m' t)) :
    run (m :: ms) s = t.setSeq (m' :: ms) := by
  rw [run, h]

/-! ## How a poll ends -/

section
variable {s : State} {busy rest : List Byte} {fuel n : Nat}

/-- Answers with BF set and then one with BF clear: the poll returns. -/
theorem busyPoll_returns {clear : Byte} (hin : s.inputs = busy ++ [clear] ++ rest) (hfuel : busy.length ≤ fuel)
    (hset : ∀ b ∈ busy, busyFlag s.cfg b = true) (hclear : busyFlag s.cfg clear = false)
    (hdead : ∀ k, s.cfg.pollDeadline = some k → n + busy.length < k)
    (hf : NoFault s (iterationEvents s.cfg.sig s.shadow (busy ++ [clear]))) :
    busyPoll fuel n s = .ok (.done (s.iterates (busy ++ [clear]))) := by
  obtain ⟨f, rfl⟩ := Nat.exists_eq_add_of_le hfuel
  rw [busyPoll_iterates f n (hears_listed hin) hset hdead hf]
  exact pollTest_clear (by rwa [State.iterates_cfg])

/-- The answer that makes the count of set flags reach the deadline: the poll raises a bus fault (R146). -/
theorem busyPoll_reaches_deadline {last : Byte} (hin : s.inputs = busy ++ [last] ++ rest) (hfuel : busy.length ≤ fuel)
    (hset : ∀ b ∈ busy, busyFlag s.cfg b = true) (hlast : busyFlag s.cfg last = true)
    (hdead : s.cfg.pollDeadline = some (n + busy.length + 1))
    (hf : NoFault s (iterationEvents s.cfg.sig s.shadow (busy ++ [last]))) :
    busyPoll fuel n s = .error ((s.iterates (busy ++ [last])).emit .deadline) := by
  obtain ⟨f, rfl⟩ := Nat.exists_eq_add_of_le hfuel
  rw [busyPoll_iterates f n (hears_listed hin) hset (fun k hk => by cases hdead.symm.trans hk; omega) hf]
  exact pollTest_deadline (by rwa [State.iterates_cfg]) (by rwa [State.iterates_cfg]) le_rfl

/-- Every listed answer has BF set: one more is the free value, and the poll is held while that has BF set too
(70_reset_and_hazards.md R314; log entries 5, 6). -/
theorem busyPoll_past_list (hin : s.inputs = busy) (hset : ∀ b ∈ busy, busyFlag s.cfg b = true)
    (hdead : ∀ k, s.cfg.pollDeadline = some k → n + busy.length + 1 < k) {v : Byte}
    (hv : v = Config.portIn (s.reads + busy.length)) (hf : NoFault s (iterationEvents s.cfg.sig s.shadow (busy ++ [v]))) :
    busyPoll s.inputs.length n s = .ok (if busyFlag s.cfg v = true then
        .hold (.poll (n + busy.length + 1)) (s.iterates (busy ++ [v])) else .done (s.iterates (busy ++ [v]))) := by
  subst hv
  rw [hin]
  refine (busyPoll_iterates 0 n (hears_free hin) hset (fun k hk => by have := hdead k hk; omega) hf).trans ?_
  split
  · exact pollTest_again (by rwa [State.iterates_cfg]) (by rwa [State.iterates_cfg])
  · exact pollTest_clear (by rwa [State.iterates_cfg, Bool.eq_false_iff])

end

/-! ## The two control bytes a poll starts from -/

/-- From idle lines, iterations are `POLL` and then `REPOLL`s (95_test_vectors.md section 0). -/
theorem iterates_idle {s : State} {vs : List Byte} (hsig : s.cfg.sig.wf = true) (hl : s.shadow &&& lineMask s.cfg.sig = 0x00#8)
    (hne : vs ≠ []) :
    iterationEvents s.cfg.sig s.shadow vs = pollsTrace s.cfg.sig s.shadow vs ∧
      s.iterates vs = s.bus (s.shadow ||| s.cfg.sig.rw) s.dirControl 0x00 (pollsTrace s.cfg.sig s.shadow vs) vs.length := by
  obtain ⟨v, vs, rfl⟩ := List.exists_cons_of_ne_nil hne
  have hd := SigMap.wf_disjoint hsig
  obtain ⟨hx, -, hevents, -⟩ := polled_polled hd hl
  rw [pollsTrace, ← hevents]
  exact iterates_from hd hl hx v vs

/-- From the control byte an iteration leaves, they are `REPOLL`s. -/
theorem iterates_held {s : State} {h : Byte} {vs : List Byte} (hsig : s.cfg.sig.wf = true) (hl : h &&& lineMask s.cfg.sig = 0x00#8)
    (hshadow : s.shadow = h ||| s.cfg.sig.rw) (hne : vs ≠ []) :
    iterationEvents s.cfg.sig s.shadow vs = vs.flatMap (repollTrace s.cfg.sig h) ∧
      s.iterates vs = s.bus s.shadow s.dirControl 0x00 (vs.flatMap (repollTrace s.cfg.sig h)) vs.length := by
  obtain ⟨v, vs, rfl⟩ := List.exists_cons_of_ne_nil hne
  have hd := SigMap.wf_disjoint hsig
  obtain ⟨-, hx, -, hevents⟩ := polled_polled hd hl
  have hfrom := iterates_from hd hl (by rw [hshadow]; exact hx) v vs
  rwa [hshadow, hevents, ← hshadow] at hfrom

/-! ## waitReady -/

theorem waitReady_timed {s : State} (h : s.waitMode = .timedDelay) : waitReady s = .ok (.done s) := by rw [waitReady, h]

theorem waitReady_polls {s : State} (h : s.waitMode = .busyPoll) : waitReady s = busyPoll s.inputs.length 0 s := by
  rw [waitReady, h]

/-- Settles O35: nothing in TimedDelay mode, and in BusyPoll mode the poll that returns. -/
theorem waitReady_law : Obligations.WaitReady := by
  refine ⟨fun s h => waitReady_timed h, ?_⟩
  intro s ⟨busy, clear⟩ rest hmode hsig hl ⟨hset, hclear, hdead⟩ hin hf
  obtain ⟨hev, hst⟩ := iterates_idle hsig hl (vs := busy ++ [clear]) (by simp)
  rw [Answers.bytes] at hin hf ⊢
  rw [waitReady_polls hmode, busyPoll_returns hin (by rw [hin]; simp) hset hclear (by simpa using hdead) (hev ▸ hf), hst]

/-! ## writeByte (R141) -/

/-- The steps of `writeByte` after its wait. -/
def writeByteCycle (sg : SigMap) (b : Byte) : List Micro :=
  [.signal sg.rw false, .signal sg.rs true, .signal sg.en true, .dataOut b, .signal (lineMask sg) false]

theorem writeByte_eq (sg : SigMap) (b : Byte) : writeByte sg b = .wait :: writeByteCycle sg b := rfl

/-- The cycle's events (R141). -/
def writeByteTrace (sg : SigMap) (h b : Byte) : List Event :=
  [.wc h, .wc (h ||| sg.rs), .wc (h ||| sg.rs ||| sg.en), .wd b, .wc h]

/-- The cycle from idle lines, or with RW high. -/
theorem run_writeByteCycle {s : State} {sg : SigMap} {h x dc dd : Byte} {tr : List Event} {n : Nat} (b : Byte)
    (hl : h &&& lineMask sg = 0x00#8) (hx : x &&& ~~~sg.rw = h) (hf : NoFault s (tr ++ writeByteTrace sg h b)) :
    run (writeByteCycle sg b) (s.bus x dc dd tr n) = s.bus h dc dd (tr ++ writeByteTrace sg h b) n := by
  have hidle : (h ||| sg.rs ||| sg.en) &&& ~~~(lineMask sg) = h := by
    obtain ⟨hrsrw, hen⟩ := or_disjoint.1 (BitVec.and_not_self (lineMask sg))
    rw [BitVec.and_or_distrib_right, BitVec.and_or_distrib_right, clear_of_disjoint hl, (or_disjoint.1 hrsrw).1, hen,
      BitVec.or_zero, BitVec.or_zero]
  have hevents : (Pins.mk x dc dd).events (writeByteCycle sg b) = writeByteTrace sg h b := by
    simp only [writeByteCycle, writeByteTrace, Pins.events, Pins.event, Pins.step, maskBits_true, maskBits_false, hx, hidle,
      List.cons_append, List.nil_append]
  have hafter : (Pins.mk x dc dd).after (writeByteCycle sg b) = ⟨h, dc, dd⟩ := by
    simp only [writeByteCycle, Pins.after, Pins.step, maskBits_true, maskBits_false, hx, hidle]
  have hrun := run_drives (s := s) (p := ⟨x, dc, dd⟩) (tr := tr) (n := n) (writeByteCycle sg b) [] rfl (hevents ▸ hf)
  rwa [hevents, hafter] at hrun

/-- Settles O36: the wait as in `waitReady`, then the five events; no step records a slot. -/
theorem writeByte_law : Obligations.WriteByte := by
  intro s b a rest hsig hl ha hin h sg cycle hf
  have hrw : h &&& sg.rw = 0x00#8 := (disjoint_or.1 (disjoint_or.1 hl).1).2
  rw [writeByte_eq]
  refine ⟨fun hmode => ?_, fun hmode => ?_⟩
  · have hcycle : NoFault s ([] ++ writeByteTrace sg h b) := fun k hk =>
      Nat.le_trans (Nat.le_add_left _ _) (transactions_append (pollsTrace sg h a.bytes) cycle ▸ hf k hk)
    rw [run_wait_timed hmode, ← congrArg (run (writeByteCycle sg b)) s.bus_start,
      run_writeByteCycle b hl (clear_of_disjoint hrw) hcycle]
    rfl
  · have hpoll := run_wait_polled (s := s) (dc := s.dirControl) (dd := s.dirData) (tr := []) (n := 0) rfl hmode
      (SigMap.wf_disjoint hsig) hl ha hin hf.mono (writeByteCycle sg b)
    rw [State.bus_start, List.nil_append, Nat.zero_add] at hpoll
    exact hpoll.trans (run_writeByteCycle b hl (set_clear_of_disjoint hrw) hf)

/-! ## The deadline (R146) -/

theorem State.bus_emit_deadline (s : State) (sh dc dd : Byte) (tr : List Event) (n : Nat) :
    (s.bus sh dc dd tr n).emit .deadline = s.bus sh dc dd (tr ++ [.deadline]) n := by
  have hcount : transactions (tr ++ [.deadline]) = transactions tr := transactions_append tr [.deadline]
  simp only [State.emit, State.bus, hcount, List.append_assoc]

/-- From idle lines, a wait that reads BF set as often as the deadline allows ends in a bus fault. -/
theorem waitReady_deadline {s : State} {busy rest : List Byte} (hmode : s.waitMode = .busyPoll) (hsig : s.cfg.sig.wf = true)
    (hl : s.shadow &&& lineMask s.cfg.sig = 0x00#8) (hdead : s.cfg.pollDeadline = some busy.length) (hne : busy ≠ [])
    (hset : ∀ b ∈ busy, busyFlag s.cfg b = true) (hin : s.inputs = busy ++ rest)
    (hf : NoFault s (pollsTrace s.cfg.sig s.shadow busy)) :
    waitReady s = .error (s.bus (s.shadow ||| s.cfg.sig.rw) s.dirControl 0x00
      (pollsTrace s.cfg.sig s.shadow busy ++ [.deadline]) busy.length) := by
  obtain ⟨hev, hst⟩ := iterates_idle hsig hl hne
  rw [← State.bus_emit_deadline, ← hst]
  rw [← hev] at hf
  obtain rfl | ⟨early, last, rfl⟩ := List.eq_nil_or_concat' busy
  · exact absurd rfl hne
  · rw [waitReady_polls hmode]
    refine busyPoll_reaches_deadline hin (by rw [hin]; simp) (fun b hb => hset b (List.mem_append_left _ hb))
      (hset last (by simp)) ?_ hf
    rw [hdead, List.length_append, Nat.zero_add]
    rfl

/-! ## Instructions that begin with a poll -/

/-- In a Ready block an instruction whose range check passes runs its steps from the state with a new trace. -/
theorem exec_eq_run {s : State} {g : Geometry} (h : Ready s g) {i : Instr} {ms : List Micro} (hp : program s i g = .ok ms) :
    exec i s = .next (run ms s.begin) := by
  rw [exec_eq_serve]
  cases needsReady i
  · rw [serve_admits h.toAdmits, hp]
  · rw [serve_ready h, hp]

/-- A layout begins with an address (42_text_and_memory.md R210). -/
theorem layoutText_cons (g : Geometry) (text : List Byte) (c r : Nat) :
    ∃ ts, (layoutText g text c r).transfers = .address c r :: ts := by
  obtain ⟨line, lines, hlines, -⟩ := linesFrom_cur [] text
  rw [layoutText, splitLines, hlines]
  exact ⟨_, rfl⟩

/-- The steps of an instruction that begins with a poll, its wait first. -/
theorem program_of_pollsFirst {i : Instr} {g : Geometry} (h : i.pollsFirst g.rows) (s : State) :
    ∃ rest, stepsOf s g i = .wait :: rest ∧ program s i g = .ok (.wait :: rest) := by
  rcases h with h | ⟨c, r, rfl⟩ | ⟨text, rfl⟩ | ⟨index, bitmap, rfl, hindex⟩ | ⟨row, rfl, hrow⟩ | ⟨on, h⟩ | h
  · simp only [List.mem_cons, List.not_mem_nil, or_false] at h
    rcases h with rfl | rfl <;> exact ⟨_, rfl, rfl⟩
  · exact ⟨_, rfl, rfl⟩
  · obtain ⟨ts, hts⟩ := layoutText_cons g text s.col s.row
    have hsteps : ∃ rest, printSteps s g text = .wait :: rest := by
      rw [printSteps, hts]
      exact ⟨_, rfl⟩
    obtain ⟨rest, hrest⟩ := hsteps
    exact ⟨rest, hrest, congrArg Except.ok hrest⟩
  · have hsteps : glyphSteps s index bitmap g = .ok (command s.cfg.sig .setCgramAddress (glyphAddress index)
        ++ writeBlock s.cfg.sig bitmap ++ restoreCursor s g ++ [.respond]) := by
      rw [glyphSteps, if_neg (by rw [Config.glyphs]; omega)]
    exact ⟨_, by rw [stepsOf, hsteps]; rfl, hsteps⟩
  · have hsteps : readRowSteps s row g = .ok (addressStep s.cfg.sig g 0 row.toNat
        ++ readBlock s.cfg.sig g.cols ++ restoreCursor s g ++ [.respond]) := by
      rw [readRowSteps, if_neg (by omega)]
    exact ⟨_, by rw [stepsOf, hsteps]; rfl, hsteps⟩
  · simp only [List.mem_cons, List.not_mem_nil, or_false] at h
    rcases h with rfl | rfl | rfl <;> exact ⟨_, rfl, rfl⟩
  · obtain ⟨⟨op, v⟩, hop⟩ := Option.ne_none_iff_exists'.1 h
    refine ⟨_, ?_, (isCommand_of_lcdOperands hop).steps s g⟩
    have hsteps : stepsOf s g i = i.lcdOperands.toList.flatMap (fun x => command s.cfg.sig x.1 x.2 ++ [.respond]) := by
      cases i with
      | hdClear | hdHome | hdEntryMode | hdDisplayCtrl | hdShift | hdFunctionSet | hdSetCgramAddress | hdSetDdramAddress => rfl
      | _ => cases hop
    rw [hsteps, hop]
    rfl

/-- In a Ready block such an instruction runs its steps, its wait first, from the state with a new trace. -/
theorem exec_of_pollsFirst {s : State} {g : Geometry} {i : Instr} (h : Ready s g) (hi : i.pollsFirst g.rows) :
    ∃ rest, stepsOf s g i = .wait :: rest ∧ exec i s = .next (run (.wait :: rest) s.begin) := by
  obtain ⟨rest, hsteps, hp⟩ := program_of_pollsFirst hi s
  exact ⟨rest, hsteps, exec_eq_run h hp⟩

/-! ## The obligations -/

/-- Settles O30: the test raises at the deadline, whichever iteration it is; a wait from idle lines gets there by the iterations
before; and an instruction that begins with such a wait ends there. -/
theorem pollDeadline : Obligations.PollDeadline := by
  refine ⟨rfl, ?_, ?_, ?_⟩
  · intro s s' n k v hdead hone hv hk
    have hcfg : s'.cfg = s.cfg := (congrArg State.cfg ((pollOnce_busied s).2 v s' hone) :)
    rw [perform, busyPoll_of_ok hone]
    exact pollTest_deadline (by rwa [hcfg]) (by rwa [hcfg]) hk
  · intro s busy rest hmode hsig hl hdead hne hset hin hf
    exact waitReady_deadline hmode hsig hl hdead hne hset hin hf
  · intro s g i busy rest hs hi hdead hne hset hin hf
    obtain ⟨ms, -, hexec⟩ := exec_of_pollsFirst hs.toReady hi
    have hwait := waitReady_deadline (s := s.begin) hs.mode hs.sig hs.lines hdead hne hset hin hf
    rw [hexec, run_error (m := .wait) hwait]
    rfl

/-- Settles O32: from the control byte the held iteration left, the poll makes its later iterations, and either returns into the
rest of the request or is held again. -/
theorem heldPollGoesOn : Obligations.HeldPollGoesOn := by
  intro s h n ms busy hseq hsig hl hshadow hset after
  have hstep : step s = .next (run (.poll n :: ms) (s.setSeq [])) := by rw [step, hseq]; rfl
  have hafter : ∀ vs : List Byte, vs ≠ [] → (s.setSeq []).iterates vs = after vs := fun vs hne =>
    (iterates_held (s := s.setSeq []) hsig hl hshadow hne).2
  have hevents : ∀ vs : List Byte, vs ≠ [] → iterationEvents s.cfg.sig s.shadow vs = vs.flatMap (repollTrace s.cfg.sig h) :=
    fun vs hne => (iterates_held hsig hl hshadow hne).1
  constructor
  · intro clear rest hclear hin hdead hf
    rw [← hevents _ (by simp)] at hf
    have hpoll : perform (.poll n) (s.setSeq []) = .ok (.done ((s.setSeq []).iterates (busy ++ [clear]))) :=
      busyPoll_returns (s := s.setSeq []) hin (by rw [State.setSeq_inputs, hin]; simp) hset hclear hdead hf
    rw [hstep, ← hafter _ (by simp), run_done hpoll]
  · intro hin hdead v hf
    rw [← hevents _ (by simp)] at hf
    have hpoll : perform (.poll n) (s.setSeq []) = .ok (if busyFlag s.cfg v = true then
        .hold (.poll (n + busy.length + 1)) ((s.setSeq []).iterates (busy ++ [v]))
        else .done ((s.setSeq []).iterates (busy ++ [v]))) := busyPoll_past_list (s := s.setSeq []) hin hset hdead rfl hf
    rw [hstep, ← hafter _ (by simp)]
    by_cases hv : busyFlag s.cfg v = true
    · rw [if_pos hv] at hpoll ⊢
      rw [run_hold hpoll]
    · rw [if_neg hv] at hpoll ⊢
      rw [run_done hpoll]

end Sys2Proof.Machine
end

section
/-! SUPPORT. The cut of a poll into steps (log entry 5): a run given from the start the answers it is to hear goes as the run that
hears them past its list, and where that one is held it goes on. -/

namespace Sys2Proof.Machine

/-! ## The answers given from the start -/

/-- The state with the answers it hears up to the state `t` listed, and then `ys`. -/
def State.foreseen (s t : State) (ys : List Byte) : State := { s with inputs := answersHeard s t ++ ys }

/-- A block that has yet to read to get to `t` hears its next answer first. -/
theorem answersHeard_cons {s t : State} (h : s.reads < t.reads) :
    answersHeard s t = nextInput s :: answersHeard s.takeInput t := by
  unfold answersHeard nextInput
  rw [State.takeInput_inputs, State.takeInput_reads]
  cases s.inputs with
  | cons v vs =>
    have hcount : t.reads - s.reads - (vs.length + 1) = t.reads - (s.reads + 1) - vs.length := by omega
    simp only [List.length_cons, List.drop_succ_cons, List.drop_zero, List.cons_append, hcount, Nat.add_assoc,
      Nat.add_comm 1 vs.length]
  | nil =>
    have hcount : t.reads - s.reads = t.reads - (s.reads + 1) + 1 := by omega
    have hnext : (fun k => Config.portIn (s.reads + k)) ∘ Nat.succ = fun k => Config.portIn (s.reads + 1 + k) := by
      funext k
      rw [Function.comp_apply, Nat.add_assoc, Nat.add_comm 1]
    simp [hcount, List.range_succ_eq_map, hnext]

/-- The next answer is the same, and taking it leaves the answers after it. -/
theorem foreseen_next {s t : State} (h : s.reads < t.reads) (ys : List Byte) :
    nextInput (s.foreseen t ys) = nextInput s ∧ (s.foreseen t ys).takeInput = s.takeInput.foreseen t ys := by
  rw [State.foreseen, answersHeard_cons h]
  exact ⟨rfl, rfl⟩

/-- At `t` itself there is nothing left to hear. -/
theorem foreseen_self (t : State) (ys : List Byte) : t.foreseen t ys = { t with inputs := t.inputs ++ ys } := by
  simp [State.foreseen, answersHeard]

/-! ## The primitives -/

/-- Part of a step makes `k` reads, and if `t` is not passed it answers the same with the answers given from the start. `st` is the
state in what it answers, `give` gives that state the answers. -/
def Foretold {α : Type} (t : State) (ys : List Byte) (st : α → State) (give : α → α) (k : Nat) (s : State) :
    Except State α → Except State α → Prop
  | .error u, r => s.reads ≤ u.reads ∧ (u.reads ≤ t.reads → r = .error (u.foreseen t ys))
  | .ok a, r => (st a).reads = s.reads + k ∧ (st a).inputs = s.inputs.drop k ∧ ((st a).reads ≤ t.reads → r = .ok (give a))

section
variable {t : State} {ys : List Byte}

theorem Foretold.bind {α β : Type} {st : α → State} {give : α → α} {st' : β → State} {give' : β → β} {k j : Nat} {s : State}
    {r r' : Except State α} {f f' : α → Except State β} (h : Foretold t ys st give k s r r')
    (hf : ∀ a, Foretold t ys st' give' j (st a) (f a) (f' (give a))) : Foretold t ys st' give' (k + j) s (r >>= f) (r' >>= f') := by
  cases r with
  | error u => exact ⟨h.1, fun hu => by rw [h.2 hu]; rfl⟩
  | ok a =>
    obtain ⟨hreads, hinputs, hr⟩ := h
    have ha := hf a
    show Foretold t ys st' give' (k + j) s (f a) (r' >>= f')
    revert ha
    generalize hfa : f a = q
    intro ha
    cases q with
    | error u =>
      obtain ⟨hle, hu⟩ := ha
      exact ⟨by omega, fun ht => by rw [hr (by omega)]; exact hu ht⟩
    | ok b =>
      obtain ⟨hbreads, hbinputs, hb⟩ := ha
      exact ⟨by omega, by rw [hbinputs, hinputs, List.drop_drop], fun ht => by rw [hr (by omega)]; exact hb ht⟩

/-- A primitive's state. -/
abbrev ForetoldState (t : State) (ys : List Byte) (s : State) (r r' : Except State State) : Prop :=
  Foretold t ys id (fun u => u.foreseen t ys) 0 s r r'

theorem foretold_transact (x : Tx) (e : Event) (s : State) :
    ForetoldState t ys s (transact x e s) (transact x e (s.foreseen t ys)) := by
  have hdraw : (s.foreseen t ys).faultIn = s.faultIn := rfl
  unfold transact
  rw [hdraw]
  cases s.faultIn with
  | none => exact ⟨rfl, rfl, fun _ => rfl⟩
  | some n =>
    cases n with
    | zero => exact ⟨le_rfl, fun _ => rfl⟩
    | succ n => exact ⟨rfl, rfl, fun _ => rfl⟩

theorem foretold_setSignal (m : Byte) (on : Bool) (s : State) :
    ForetoldState t ys s (setSignal m on s) (setSignal m on (s.foreseen t ys)) :=
  foretold_transact _ _ (s.setShadow _)

theorem foretold_setDir (p : Port) (m : Byte) (input : Bool) (s : State) :
    ForetoldState t ys s (setDir p m input s) (setDir p m input (s.foreseen t ys)) := by
  cases p with
  | control => exact foretold_transact _ _ (s.setDirOf .control _)
  | data => exact foretold_transact _ _ (s.setDirOf .data _)

/-- A byte read and the state after it, given the answers. -/
def giveRead (t : State) (ys : List Byte) (r : Byte × State) : Byte × State := (r.1, r.2.foreseen t ys)

/-- The one primitive that reads: if the read is made before `t`, it answers the same byte. -/
theorem foretold_portIn (s : State) : Foretold t ys Prod.snd (giveRead t ys) 1 s (portIn s) (portIn (s.foreseen t ys)) := by
  have htransact := foretold_transact (t := t) (ys := ys) .rd (.rd (nextInput s)) s
  unfold portIn
  cases hr : transact .rd (.rd (nextInput s)) s with
  | error u =>
    obtain ⟨hdraw, rfl⟩ := transact_error hr
    obtain ⟨-, -, hfail⟩ := transact_by_draw .rd (.rd (nextInput (s.foreseen t ys))) (s.foreseen t ys)
    exact ⟨le_rfl, fun _ => by rw [hfail hdraw]; rfl⟩
  | ok u =>
    rw [hr] at htransact
    obtain ⟨hreads, hinputs, hu⟩ := htransact
    refine ⟨congrArg (· + 1) hreads, congrArg (List.drop 1) hinputs, fun ht => ?_⟩
    have hlt : u.reads < t.reads := ht
    rw [(foreseen_next (s := s) (lt_of_eq_of_lt hreads.symm hlt) ys).1, hu hlt.le]
    exact congrArg (fun w => Except.ok (nextInput s, w)) (foreseen_next hlt ys).2

theorem foretold_pollOnce (s : State) : Foretold t ys Prod.snd (giveRead t ys) 1 s (pollOnce s) (pollOnce (s.foreseen t ys)) := by
  refine (foretold_setSignal _ false s).bind (j := 1) fun s => ?_
  refine (foretold_setSignal _ true s).bind (j := 1) fun s => ?_
  refine (foretold_setDir .data 0xFF true s).bind (j := 1) fun s => ?_
  refine (foretold_setSignal _ true s).bind (j := 1) fun s => ?_
  refine (foretold_portIn s).bind (j := 0) fun r => ?_
  refine (foretold_setSignal _ false r.2).bind (j := 0) fun s => ?_
  exact (foretold_setDir .data 0xFF false s).bind (j := 0) fun s => ⟨rfl, rfl, fun _ => rfl⟩

/-! ## The busy poll -/

/-- A step makes some reads, and if `t` is not passed it ends the same with the answers given from the start, or where it is held
goes on. -/
def ForetoldStep (t : State) (ys : List Byte) (s : State) : Except State Done → Except State Done → Prop
  | .error u, r => s.reads ≤ u.reads ∧ (u.reads ≤ t.reads → r = .error (u.foreseen t ys))
  | .ok (.done u), r => s.reads ≤ u.reads ∧ (u.reads ≤ t.reads → r = .ok (.done (u.foreseen t ys)))
  | .ok (.hold m u), r => s.reads ≤ u.reads ∧ u.inputs = [] ∧ (u.reads ≤ t.reads → r = perform m (u.foreseen t ys))

/-- What comes after `u` can be foretold from an `s` before it. -/
theorem ForetoldStep.earlier {s u : State} {r r' r'' : Except State Done} (h : ForetoldStep t ys u r r') (hle : s.reads ≤ u.reads)
    (hr : u.reads ≤ t.reads → r'' = r') : ForetoldStep t ys s r r'' := by
  rcases r with w | w | ⟨m, w⟩
  · obtain ⟨hw, h⟩ := h
    exact ⟨hle.trans hw, fun ht => (hr (hw.trans ht)).trans (h ht)⟩
  · obtain ⟨hw, h⟩ := h
    exact ⟨hle.trans hw, fun ht => (hr (hw.trans ht)).trans (h ht)⟩
  · obtain ⟨hw, hempty, h⟩ := h
    exact ⟨hle.trans hw, hempty, fun ht => (hr (hw.trans ht)).trans (h ht)⟩

theorem ForetoldStep.pollTest {s : State} {n : Nat} {again again' : State → Except State Done} {v : Byte}
    (h : ForetoldStep t ys s (again s) (again' (s.foreseen t ys))) :
    ForetoldStep t ys s (pollTest n again v s) (pollTest n again' v (s.foreseen t ys)) := by
  have hcfg : (s.foreseen t ys).cfg = s.cfg := rfl
  unfold Machine.pollTest
  rw [hcfg]
  split
  · split
    · exact ⟨le_rfl, fun _ => rfl⟩
    · exact h
  · exact ⟨le_rfl, fun _ => rfl⟩

/-- One iteration, and the poll as it goes on from there. -/
theorem foretold_iteration {fuel n : Nat} {s : State}
    (hgo : ∀ u : State, u.inputs = s.inputs.drop 1 → ForetoldStep t ys u (goOn fuel n u)
      (busyPoll (u.foreseen t ys).inputs.length (n + 1) (u.foreseen t ys))) :
    ForetoldStep t ys s (busyPoll fuel n s) (busyPoll (s.foreseen t ys).inputs.length n (s.foreseen t ys)) := by
  have hone := foretold_pollOnce (t := t) (ys := ys) s
  rcases hr : pollOnce s with u | ⟨v, u⟩ <;> rw [hr] at hone
  · rw [busyPoll_of_error hr]
    exact ⟨hone.1, fun ht => busyPoll_of_error (hone.2 ht)⟩
  · obtain ⟨hreads, hinputs, hu⟩ := hone
    have hreads : u.reads = s.reads + 1 := hreads
    rw [busyPoll_of_ok hr]
    refine (ForetoldStep.pollTest (again' := goOn ((u.foreseen t ys).inputs.length + 1) n) (hgo u hinputs)).earlier (by omega)
      fun ht => ?_
    have hheard : answersHeard u t = answersHeard s.takeInput t := by
      rw [answersHeard, answersHeard, hreads, show u.inputs = s.inputs.drop 1 from hinputs]
      rfl
    have hlength : (s.foreseen t ys).inputs.length = (u.foreseen t ys).inputs.length + 1 := by
      simp only [State.foreseen, hheard, answersHeard_cons (show s.reads < t.reads by omega)]
      rfl
    rw [busyPoll_of_ok (hu ht), hlength]

/-- A poll that passes its list by one read is held; given the answers, it goes on. -/
theorem foretold_busyPoll (fuel n : Nat) {s : State} (hfuel : s.inputs.length = fuel) :
    ForetoldStep t ys s (busyPoll fuel n s) (busyPoll (s.foreseen t ys).inputs.length n (s.foreseen t ys)) := by
  induction fuel generalizing n s with
  | zero =>
    refine foretold_iteration fun u hu => ⟨le_rfl, ?_, fun _ => rfl⟩
    rw [hu, List.length_eq_zero_iff.1 hfuel]
    rfl
  | succ fuel ih => exact foretold_iteration fun u hu => ih (n + 1) (by rw [hu, List.length_drop, hfuel]; rfl)

/-! ## Runs -/

theorem ForetoldStep.of_plain {s : State} {r r' : Except State State} (h : ForetoldState t ys s r r') :
    ForetoldStep t ys s (plain r) (plain r') := by
  cases r with
  | error u => exact ⟨h.1, fun ht => by rw [h.2 ht]; rfl⟩
  | ok u =>
    obtain ⟨hreads, -, hu⟩ := h
    exact ⟨hreads.ge, fun ht => by rw [hu ht]; rfl⟩

theorem foretold_perform (m : Micro) (s : State) : ForetoldStep t ys s (perform m s) (perform m (s.foreseen t ys)) := by
  have hdone : ∀ {u : State} {r : Except State Done}, u.reads = s.reads → r = .ok (.done (u.foreseen t ys)) →
      ForetoldStep t ys s (.ok (.done u)) r := fun hreads hr => ⟨hreads.ge, fun _ => hr⟩
  cases m with
  | signal m on => exact .of_plain (foretold_setSignal m on s)
  | dir p m input => exact .of_plain (foretold_setDir p m input s)
  | dataOut b => exact .of_plain (foretold_transact _ _ s)
  | sample =>
    have hread := foretold_portIn (t := t) (ys := ys) s
    unfold perform
    rcases hr : portIn s with u | ⟨v, u⟩ <;> rw [hr] at hread
    · exact ⟨hread.1, fun ht => by rw [hread.2 ht]⟩
    · obtain ⟨hreads, -, hu⟩ := hread
      have hreads : u.reads = s.reads + 1 := hreads
      exact ⟨show s.reads ≤ u.reads by omega, fun ht => by rw [hu ht]; rfl⟩
  | wait =>
    show ForetoldStep t ys s (waitReady s) (waitReady (s.foreseen t ys))
    cases hmode : s.waitMode with
    | timedDelay =>
      rw [waitReady_timed hmode, waitReady_timed (s := s.foreseen t ys) hmode]
      exact hdone rfl rfl
    | busyPoll =>
      rw [waitReady_polls hmode, waitReady_polls (s := s.foreseen t ys) hmode]
      exact foretold_busyPoll _ 0 rfl
  | poll n => exact foretold_busyPoll _ n rfl
  | pos k p => cases k <;> exact hdone rfl rfl
  | _ => exact hdone rfl rfl

/-- No step but a request's end touches the sequencer's position, and that clears it. -/
theorem perform_seq (m : Micro) {s : State} (h : s.seq = []) : Ends (fun u => u.seq = []) (perform m s) := by
  have hbusied : ∀ u, Busied s u → u.seq = [] := fun u hu => (congrArg State.seq hu :).trans h
  cases m with
  | signal m on => exact (setSignal_busied m on s).ends_plain hbusied
  | dir p m input => exact (setDir_busied p m input s).ends_plain hbusied
  | dataOut b => exact (portOut_busied .data b s).ends_plain hbusied
  | sample =>
    obtain ⟨herror, hok⟩ := portIn_busied s
    rw [perform]
    split <;> rename_i hr
    · exact hbusied _ (herror _ hr)
    · exact (hbusied _ (hok _ _ hr) :)
  | wait => exact (waitReady_busied s).mono hbusied
  | poll n => exact (busyPoll_busied _ n s).mono hbusied
  | pos k p => cases k <;> exact h
  | respond => rfl
  | _ => exact h

theorem setSeq_nil_of_idle {s : State} (h : s.seq = []) : s.setSeq [] = s := by
  rw [State.setSeq, ← h]

/-- The run with the answers given from the start is the run itself, and where that is held, it goes on from there. -/
theorem run_foreseen (ms : List Micro) {s : State} (hseq : s.seq = []) :
    s.reads ≤ (run ms s).reads ∧ ((run ms s).seq ≠ [] → (run ms s).inputs = []) ∧
      ((run ms s).reads ≤ t.reads → run ms (s.foreseen t ys) =
        if (run ms s).seq = [] then (run ms s).foreseen t ys
        else run (run ms s).seq (((run ms s).foreseen t ys).setSeq [])) := by
  induction ms generalizing s with
  | nil => exact ⟨le_rfl, fun h => absurd hseq h, fun _ => (if_pos hseq).symm⟩
  | cons m ms ih =>
    have hstep := foretold_perform (t := t) (ys := ys) m s
    have hidle := perform_seq m hseq
    rcases hr : perform m s with u | u | ⟨m', u⟩ <;> rw [hr] at hstep hidle
    · obtain ⟨hle, hu⟩ := hstep
      rw [run_error hr]
      exact ⟨hle, fun h => absurd rfl h, fun ht => by rw [run_error (hu ht)]; rfl⟩
    · obtain ⟨hle, hu⟩ := hstep
      obtain ⟨hle', hempty, hrun⟩ := ih hidle
      rw [run_done hr]
      exact ⟨hle.trans hle', hempty, fun ht => by rw [run_done (hu (hle'.trans ht)), hrun ht]⟩
    · obtain ⟨hle, hempty, hu⟩ := hstep
      rw [run_hold hr]
      refine ⟨hle, fun _ => hempty, fun ht => ?_⟩
      have hheld : ((u.setSeq (m' :: ms)).foreseen t ys).setSeq [] = u.foreseen t ys :=
        setSeq_nil_of_idle (s := u.foreseen t ys) hidle
      rw [State.setSeq_seq, if_neg (List.cons_ne_nil _ _), hheld, run, hu ht, ← run]

end

end Sys2Proof.Machine
end

section
/-! OBLIGATION. A poll goes on while BF is set, and its cut into steps changes nothing (70_reset_and_hazards.md R314; log entries 5,
6). -/

namespace Sys2Proof.Machine

/-- A run only adds to the trace. -/
theorem run_trace_extends {s : State} {tr : List Event} (h : s.trace = tr) (ms : List Micro) : tr <+: (run ms s).trace := by
  obtain ⟨new, htr, -⟩ := (later_run ms s).copies
  exact ⟨new, by rw [htr, h]⟩

/-- From idle lines, a wait whose listed answers all have BF set takes the free value, and is held while that has BF set. -/
theorem waitReady_past_list {s : State} {busy : List Byte} (hmode : s.waitMode = .busyPoll) (hsig : s.cfg.sig.wf = true)
    (hl : s.shadow &&& lineMask s.cfg.sig = 0x00#8) (hdead : ∀ k, s.cfg.pollDeadline = some k → busy.length + 1 < k)
    (hset : ∀ b ∈ busy, busyFlag s.cfg b = true) (hin : s.inputs = busy) {v : Byte}
    (hv : v = Config.portIn (s.reads + busy.length)) (hf : NoFault s (pollsTrace s.cfg.sig s.shadow (busy ++ [v]))) :
    waitReady s = .ok (if busyFlag s.cfg v = true then
        .hold (.poll (busy.length + 1)) (s.bus (s.shadow ||| s.cfg.sig.rw) s.dirControl 0x00
          (pollsTrace s.cfg.sig s.shadow (busy ++ [v])) (busy.length + 1))
      else .done (s.bus (s.shadow ||| s.cfg.sig.rw) s.dirControl 0x00 (pollsTrace s.cfg.sig s.shadow (busy ++ [v]))
          (busy.length + 1))) := by
  obtain ⟨hev, hst⟩ := iterates_idle hsig hl (vs := busy ++ [v]) (by simp)
  rw [List.length_append] at hst
  have hpoll := busyPoll_past_list (n := 0) hin hset (by simpa using hdead) hv (hev ▸ hf)
  rw [hst, Nat.zero_add] at hpoll
  rw [waitReady_polls hmode, hpoll]
  rfl

/-- So for the first wait of a request in a Ready idle block. -/
theorem ReadyIdle.run_wait_past_list {s : State} {g : Geometry} {busy : List Byte} (hs : ReadyIdle s g)
    (hdead : ∀ k, s.cfg.pollDeadline = some k → busy.length + 1 < k) (hset : ∀ b ∈ busy, busyFlag s.cfg b = true)
    (hin : s.inputs = busy) {v : Byte} (hv : v = Config.portIn (s.reads + busy.length)) {tr : List Event}
    (htr : tr = pollsTrace s.cfg.sig s.shadow (busy ++ [v])) (hf : NoFault s tr) (ms : List Micro) :
    run (.wait :: ms) s.begin =
      if busyFlag s.cfg v = true then
        (s.begin.bus (s.shadow ||| s.cfg.sig.rw) s.dirControl 0x00 tr (busy.length + 1)).setSeq (.poll (busy.length + 1) :: ms)
      else run ms (s.begin.bus (s.shadow ||| s.cfg.sig.rw) s.dirControl 0x00 tr (busy.length + 1)) := by
  subst htr
  have hwait := waitReady_past_list (s := s.begin) hs.mode hs.sig hs.lines hdead hset hin hv hf
  rw [State.begin_cfg] at hwait
  split
  · rw [if_pos ‹_›] at hwait
    exact run_hold (m := .wait) hwait
  · rw [if_neg ‹_›] at hwait
    exact run_done (m := .wait) hwait

/-- Blocks with one geometry that the state checks answer alike go alike: both are refused, or both run the same steps. -/
theorem serve_alike {s s' : State} {needReady : Bool} (prog : Geometry → Except Status (List Micro)) (hgeom : s'.geom = s.geom)
    (hadm : admission needReady s' = admission needReady s) :
    (∃ e, serve needReady prog s = s.refused e ∧ serve needReady prog s' = s'.refused e) ∨
      ∃ ms, serve needReady prog s = run ms s.begin ∧ serve needReady prog s' = run ms s'.begin := by
  unfold serve
  rw [hgeom, hadm]
  split
  · exact .inl ⟨_, rfl, rfl⟩
  · split
    · exact .inl ⟨_, rfl, rfl⟩
    · split
      · exact .inl ⟨_, rfl, rfl⟩
      · exact .inr ⟨_, rfl, rfl⟩

/-- An instruction given its answers from the start: admitted alike, and its run foretold (log entry 5). -/
theorem exec_foreseen {i : Instr} {s t : State} (ys : List Byte) (h : exec i s = .next t) :
    exec i (s.foreseen t ys) = if t.seq = [] then .next { t with inputs := t.inputs ++ ys } else step { t with inputs := ys } := by
  have hprogram : program (s.foreseen t ys) i = program s i := by cases i <;> rfl
  rw [exec_eq_serve] at h ⊢
  rw [hprogram]
  rcases serve_alike (s := s) (s' := s.foreseen t ys) (program s i) rfl rfl with ⟨e, hs, hs'⟩ | ⟨ms, hs, hs'⟩
  · rw [hs] at h
    cases h
    rw [hs', ← foreseen_self]
    rfl
  · obtain rfl : run ms s.begin = t := by simpa [hs] using h
    obtain ⟨-, hempty, hrun⟩ := run_foreseen (t := run ms s.begin) (ys := ys) ms s.begin_seq
    rw [hs', show (s.foreseen (run ms s.begin) ys).begin = s.begin.foreseen (run ms s.begin) ys from rfl, hrun le_rfl,
      foreseen_self]
    cases hseq : (run ms s.begin).seq with
    | nil => rfl
    | cons m rest =>
      rw [if_neg (List.cons_ne_nil _ _), if_neg (List.cons_ne_nil _ _), hempty (by rw [hseq]; exact List.cons_ne_nil _ _),
        List.nil_append, step]
      rfl

/-- Settles O31: a wait from idle lines is held or returns by the free value; an instruction that begins with one is held with the
rest of its steps, or goes on from the same trace; and a run given its answers from the start is the held one going on. -/
theorem pollHolds : Obligations.PollHolds := by
  refine ⟨?_, ?_, ?_, ?_⟩
  · intro s busy hmode hsig hl hdead hset hin v tr u hf
    exact waitReady_past_list hmode hsig hl hdead hset hin rfl hf
  · intro s g i busy hs hi hdead hset hin v tr hf
    obtain ⟨rest, hsteps, hexec⟩ := exec_of_pollsFirst hs.toReady hi
    refine ⟨_, hexec, ?_⟩
    rw [hs.run_wait_past_list hdead hset hin rfl rfl hf]
    split
    · exact ⟨⟨[], List.append_nil _⟩, fun _ => ⟨rest, hsteps, rfl⟩⟩
    · exact ⟨run_trace_extends (by rfl) rest, fun h => absurd h ‹_›⟩
  · intro s g busy hs hdead hset hin v tr hf
    obtain ⟨hcmd, hidle⟩ := rawCmd_polled hs.lines (lcdOpcode .clear ||| 0x00)
    refine ⟨_, exec_eq_run hs.toReady rfl, ?_⟩
    rw [homingSteps, command, List.cons_append, hs.run_wait_past_list hdead hset hin rfl rfl hf.mono]
    split
    · exact ⟨rfl, List.cons_ne_nil _ _⟩
    · rw [List.append_assoc, run_instructionCycle (s := s.begin) (sg := s.cfg.sig) rfl _ (by rw [hcmd]; exact hf)]
      rw [hcmd, hidle, List.cons_append, List.nil_append, run_record, run_cursor, run_respond]
      rfl
  · intro i s t ys h
    exact exec_foreseen ys h

end Sys2Proof.Machine
end

section
/-! SUPPORT. Rules for a run that may fault: what holds of the block when a step of the pseudocode has faulted
(60_exceptions.md R274). -/

namespace Sys2Proof.Machine

/-- `K` holds of the block if it is faulted. -/
def OnFault (K : State → Prop) (t : State) : Prop := t.faulted = true → K t

/-- A step that completes ends in `Q`, one that faults leaves `K`, and a held one is not faulted. -/
def StepsTo (K Q : State → Prop) : Except State Done → Prop
  | .error t => K (onBusFault t)
  | .ok (.done t) => Q t
  | .ok (.hold _ t) => t.faulted = false

/-- The steps pass from `P` to `Q`: whatever is left to run after them, a fault leaves `K` if it does so from `Q` on. -/
def Passes (K P Q : State → Prop) (ms : List Micro) : Prop :=
  ∀ rest u, P u → (∀ v, Q v → OnFault K (run rest v)) → OnFault K (run (ms ++ rest) u)

section
variable {K P Q S I : State → Prop} {a b ms : List Micro}

theorem Passes.weaken (hPQ : ∀ u, P u → Q u) : Passes K P Q [] := fun _ u hu hrest => hrest u (hPQ u hu)

theorem Passes.append (h : Passes K P Q a) (k : Passes K Q S b) : Passes K P S (a ++ b) := fun rest u hu hrest => by
  rw [List.append_assoc]
  exact h _ u hu fun v hv => k rest v hv hrest

theorem Passes.cons {m : Micro} (h : Passes K P Q [m]) (k : Passes K Q S ms) : Passes K P S (m :: ms) := h.append k

theorem Passes.step {m : Micro} (h : ∀ u, P u → StepsTo K Q (perform m u)) : Passes K P Q [m] := fun rest u hu hrest => by
  have hstep := h u hu
  rcases hr : perform m u with t | t | ⟨m', t⟩ <;> rw [hr] at hstep
  · rw [List.singleton_append, run_error hr]
    exact fun _ => hstep
  · rw [List.singleton_append, run_done hr]
    exact hrest t hstep
  · rw [List.singleton_append, run_hold hr]
    exact fun hf => flag_absurd hf hstep

/-- What a step keeps whether or not it faults, in a block that is not faulted, may be claimed of a fault. -/
theorem StepsTo.of_ends {r : Except State Done} (h : Ends I r) (hfaulted : ∀ u, I u → u.faulted = false)
    (hfault : ∀ u, I u → K (onBusFault u)) : StepsTo K I r := by
  rcases r with t | t | ⟨m, t⟩
  · exact hfault t h
  · exact h
  · exact hfaulted t h

/-- Steps that each keep `I`, one after the other. -/
theorem Passes.keeps (h : ∀ m ∈ ms, ∀ u, I u → StepsTo K I (perform m u)) : Passes K I I ms := by
  induction ms with
  | nil => exact .weaken fun _ hu => hu
  | cons m ms ih =>
    obtain ⟨hm, hms⟩ := List.forall_mem_cons.1 h
    exact (Passes.step hm).cons (ih hms)

/-- The whole run, when its steps are all. -/
theorem Passes.onFault (h : Passes K P Q ms) (hQ : ∀ u, Q u → u.faulted = false) {u : State} (hu : P u) :
    OnFault K (run ms u) := by
  have hrun := h [] u hu fun v hv hf => flag_absurd hf (hQ v hv)
  rwa [List.append_nil] at hrun

end

/-! ## The steps and `faulted` -/

theorem Ends.and {P Q : State → Prop} {r : Except State Done} (h : Ends P r) (k : Ends Q r) : Ends (fun t => P t ∧ Q t) r := by
  rcases r with t | t | ⟨m, t⟩ <;> exact ⟨h, k⟩

/-- No step sets `faulted` by itself: the sequencer does, when a step faults (R274). -/
theorem perform_faulted (m : Micro) (s : State) : Ends (fun t => t.faulted = s.faulted) (perform m s) := by
  have hbusied : ∀ t, Busied s t → t.faulted = s.faulted := fun t ht => (congrArg State.faulted ht :)
  cases m with
  | signal m on => exact (setSignal_busied m on s).ends_plain hbusied
  | dir p m input => exact (setDir_busied p m input s).ends_plain hbusied
  | dataOut b => exact (portOut_busied .data b s).ends_plain hbusied
  | sample =>
    obtain ⟨herror, hok⟩ := portIn_busied s
    rw [perform]
    split <;> rename_i hr
    · exact hbusied _ (herror _ hr)
    · exact (hbusied _ (hok _ _ hr) :)
  | wait => exact (waitReady_busied s).mono hbusied
  | poll n => exact (busyPoll_busied _ n s).mono hbusied
  | pos k p => cases k <;> rfl
  | _ => rfl

/-- A step of the bookkeeping, which makes no transaction. -/
def Micro.isInner : Micro → Bool
  | .record _ _ => true
  | .cursor _ _ => true
  | .pos _ _ => true
  | .respond => true
  | _ => false

/-- The bookkeeping cannot fault. -/
theorem passes_inner {K : State → Prop} {ms : List Micro} (hms : ∀ m ∈ ms, m.isInner = true) :
    Passes K (fun u => u.faulted = false) (fun u => u.faulted = false) ms := by
  refine .keeps fun m hm u hu => ?_
  have hinner := hms m hm
  cases m with
  | pos k p => cases k <;> exact hu
  | record op v => exact hu
  | cursor c r => exact hu
  | respond => exact hu
  | _ => cases hinner

/-- Bookkeeping that comes after the transactions is not done when one of them faults: the fault leaves what the steps before
the bookkeeping leave. -/
theorem fault_framed {fp : Footprint} {s : State} {early late : List Micro} (hs : s.faulted = false)
    (hearly : Within s.cfg.sig fp early) (hlate : ∀ m ∈ late, m.isInner = true) :
    OnFault (Framed fp s) (run (early ++ late) s.begin) := by
  have hkeeps : Passes (Framed fp s) (fun u => Framed fp s u ∧ u.faulted = false) (fun u => Framed fp s u ∧ u.faulted = false)
      early :=
    .keeps fun m hm u ⟨hframe, hf⟩ =>
      .of_ends ((hframe.perform (hearly m hm)).and ((perform_faulted m u).mono fun _ ht => ht.trans hf))
        (fun _ h => h.2) (fun _ h => h.1.unobserved)
  have hboth := (hkeeps.append (.weaken fun _ h => h.2)).append (passes_inner (K := Framed fp s) hlate)
  rw [List.append_nil] at hboth
  exact hboth.onFault (fun _ h => h) ⟨(Framed.refl _ s).unobserved, hs⟩

end Sys2Proof.Machine
end

section
/-! SUPPORT. The fields a request writes in its bookkeeping only: a fault leaves them as before (60_exceptions.md R274 (c), (d),
(g)). -/

namespace Sys2Proof.Machine

/-- A footprint that holds everything. -/
def wholeBlock : Footprint :=
  { signals := 0xFF
    controlPort := true
    dataPort := true
    slots := [.clear, .home, .entryMode, .displayCtrl, .shift, .functionSet, .setCgramAddress, .setDdramAddress]
    cursor := true
    wipers := [.contrast, .backlight]
    modes := true
    closes := true }

theorem mem_wholeBlock_slots (op : LcdOp) : op ∈ wholeBlock.slots := by cases op <;> decide

/-- Every signal is in the whole control byte. -/
theorem and_not_allOnes (m : Byte) : m &&& ~~~0xFF#8 = 0x00#8 := BitVec.and_zero

/-- Steps whose bookkeeping comes last, those before it writing nothing outside the footprint. -/
def Guarded (sg : SigMap) (fp : Footprint) (ms : List Micro) : Prop :=
  ∃ early late, ms = early ++ late ∧ Within sg fp early ∧ ∀ m ∈ late, m.isInner = true

theorem Guarded.onFault {s : State} {fp : Footprint} {ms : List Micro} (h : Guarded s.cfg.sig fp ms) (hs : s.faulted = false) :
    OnFault (Framed fp s) (run ms s.begin) := by
  obtain ⟨early, late, rfl, hearly, hlate⟩ := h
  exact fault_framed hs hearly hlate

/-! ## One command: its slot (R274 (c)) -/

theorem guarded_command (sg : SigMap) (op : LcdOp) (v : Byte) {tail : List Micro} (htail : ∀ m ∈ tail, m.isInner = true) :
    Guarded sg { wholeBlock with slots := [] } (command sg op v ++ tail) := by
  refine ⟨.wait :: instructionCycle sg (lcdOpcode op ||| v), .record op v :: tail, ?_, ?_, List.forall_mem_cons.2 ⟨rfl, htail⟩⟩
  · simp [command]
  · have hlines : ({ wholeBlock with slots := [] } : Footprint).Transfers sg := ⟨and_not_allOnes _, rfl⟩
    exact .cons hlines (within_instructionCycle hlines _)

/-- An instruction that sends one command and nothing else. -/
def SendsOne (i : Instr) : Prop :=
  i ∈ [.clear, .home] ∨ (∃ c r, i = .setCursor c r) ∨ (∃ b, i ∈ [.setBlink b, .setCursorVisible b, .setDisplayVisible b])
    ∨ i.lcdOperands ≠ none

theorem guarded_sendsOne {i : Instr} {s : State} {g : Geometry} {ms : List Micro} (hi : SendsOne i)
    (hp : program s i g = .ok ms) : Guarded s.cfg.sig { wholeBlock with slots := [] } ms := by
  rcases hi with h | ⟨c, r, rfl⟩ | ⟨on, h⟩ | h
  · simp only [List.mem_cons, List.not_mem_nil, or_false] at h
    rcases h with rfl | rfl <;> cases hp <;> exact guarded_command _ _ _ (by decide)
  · cases hp
    exact guarded_command _ _ _ (by simp [Micro.isInner])
  · simp only [List.mem_cons, List.not_mem_nil, or_false] at h
    rcases h with rfl | rfl | rfl <;> cases hp <;> exact guarded_command _ _ _ (by decide)
  · obtain ⟨⟨op, v⟩, hop⟩ := Option.ne_none_iff_exists'.1 h
    rw [(isCommand_of_lcdOperands hop).steps s g] at hp
    cases hp
    exact guarded_command _ _ _ (by decide)

/-! ## The tracked cursor (R274 (d)) -/

theorem guarded_movesCursor {i : Instr} {s : State} {g : Geometry} {ms : List Micro} (hi : i.movesCursor = true)
    (hon : i ≠ .powerOn) (hp : program s i g = .ok ms) : Guarded s.cfg.sig { wholeBlock with cursor := false } ms := by
  have hlines : ({ wholeBlock with cursor := false } : Footprint).Transfers s.cfg.sig := ⟨and_not_allOnes _, rfl⟩
  have hcommand : ∀ op v, Within s.cfg.sig { wholeBlock with cursor := false } (command s.cfg.sig op v) :=
    fun op v => within_command hlines (mem_wholeBlock_slots op) v
  have hlate : ∀ c r, ∀ m ∈ [Micro.cursor c r, .respond], m.isInner = true := fun c r => by simp [Micro.isInner]
  cases i with
  | powerOn => exact absurd rfl hon
  | clear | home => cases hp; exact ⟨_, _, rfl, hcommand _ _, hlate 0 0⟩
  | setCursor col row => cases hp; exact ⟨_, _, rfl, hcommand _ _, hlate _ _⟩
  | print text =>
    cases hp
    exact ⟨_, _, rfl, .flatMap (within_transferSteps hlines (mem_wholeBlock_slots _) g) _, hlate _ _⟩
  | _ => cases hi

/-! ## The tracked positions (R274 (g)) -/

section
variable {sg : SigMap} {k : Pot} {p : Nat}

/-- Pulses drive signals only; the position is tracked after them. -/
theorem guarded_pulses {ms : List Micro} (hms : Within sg { wholeBlock with wipers := [] } ms) :
    Guarded sg { wholeBlock with wipers := [] } (ms ++ [.pos k p] ++ [.respond]) :=
  ⟨ms, [.pos k p, .respond], List.append_assoc .., hms, by simp [Micro.isInner]⟩

/-- Any signal may be driven. -/
theorem within_signal {mask : Byte} {on : Bool} {ms : List Micro} (hms : Within sg { wholeBlock with wipers := [] } ms) :
    Within sg { wholeBlock with wipers := [] } (.signal mask on :: ms) := .cons (and_not_allOnes mask) hms

theorem guarded_setWiper (target : Nat) :
    Guarded sg { wholeBlock with wipers := [] } (setWiper sg k p target ++ [.respond]) := by
  unfold setWiper
  dsimp only
  split
  · exact ⟨[], [.respond], rfl, .nil, by decide⟩
  · have hpulse : ∀ d, Within sg { wholeBlock with wipers := [] } (burstPulse sg d) := fun _ => within_signal (within_signal .nil)
    exact guarded_pulses (.append (.append (within_signal (within_signal .nil)) ((hpulse _).replicate _)) (within_signal .nil))

theorem guarded_step (up : Bool) (q : Nat) :
    Guarded sg { wholeBlock with wipers := [] } (stepPulse sg k up ++ [.pos k q] ++ [.respond]) :=
  guarded_pulses (within_signal (within_signal (within_signal .nil)))

end

theorem guarded_wipers {i : Instr} {s : State} {g : Geometry} {ms : List Micro} (hi : wipers i ≠ []) (hon : i ≠ .powerOn)
    (hp : program s i g = .ok ms) : Guarded s.cfg.sig { wholeBlock with wipers := [] } ms := by
  cases i with
  | powerOn => exact absurd rfl hon
  | setContrast level | setBacklight level => cases hp; exact guarded_setWiper _
  | contrastInc | backlightInc => cases hp; exact guarded_step true _
  | contrastDec | backlightDec => cases hp; exact guarded_step false _
  | _ => exact absurd rfl hi

end Sys2Proof.Machine
end

section
/-! SUPPORT. The commands a run has completed, counted from its trace (60_exceptions.md R274 (e)), and the slots they leave. -/

namespace Sys2Proof.Machine

/-- The slots after the commands `cmds`. -/
def PerOp.sent (cs : PerOp Byte) (cmds : List (LcdOp × Byte)) : PerOp Byte := cmds.foldl (fun cs x => cs.set x.1 x.2) cs

theorem PerOp.sent_concat (cs : PerOp Byte) (cmds : List (LcdOp × Byte)) (op : LcdOp) (v : Byte) :
    PerOp.sent cs (cmds ++ [(op, v)]) = (PerOp.sent cs cmds).set op v := List.foldl_concat ..

/-! ## Counting -/

/-- After the trace, `n` commands are completed and the last control byte written is `h`. -/
def Counts (rs h₀ : Byte) (n : Nat) (h : Byte) (tr : List Event) : Prop :=
  ∀ tail, commandsDone rs h₀ (tr ++ tail) = n + commandsDone rs h tail

section
variable {rs h₀ h : Byte} {n : Nat} {tr : List Event}

theorem Counts.nil : Counts rs h₀ 0 h₀ [] := fun _ => (Nat.zero_add _).symm

theorem Counts.done (hc : Counts rs h₀ n h tr) : commandsDone rs h₀ tr = n := by
  have h := hc []
  rwa [List.append_nil] at h

/-- An event, or several, that the count goes on from with `k` more completed. -/
theorem Counts.snoc {new : List Event} {k : Nat} {h' : Byte} (hc : Counts rs h₀ n h tr)
    (hnew : ∀ tail, commandsDone rs h (new ++ tail) = k + commandsDone rs h' tail) : Counts rs h₀ (n + k) h' (tr ++ new) :=
  fun tail => by rw [List.append_assoc, hc, hnew, Nat.add_assoc]

theorem Counts.control (hc : Counts rs h₀ n h tr) (w : Byte) : Counts rs h₀ n w (tr ++ [.wc w]) :=
  hc.snoc (k := 0) fun _ => (Nat.zero_add _).symm

/-- What is neither a control nor a data byte written. -/
def Event.isAside : Event → Bool
  | .wc _ => false
  | .wd _ => false
  | _ => true

theorem Counts.aside (hc : Counts rs h₀ n h tr) {e : Event} (he : e.isAside = true) : Counts rs h₀ n h (tr ++ [e]) :=
  hc.snoc (k := 0) fun tail => by
    rw [Nat.zero_add]
    cases e with
    | wc _ | wd _ => cases he
    | _ => rfl

/-- A data byte written with RS high completes no command (30_encoding.md R101). -/
theorem Counts.data (hc : Counts rs h₀ n h tr) (hrs : signalHigh rs h = true) (b : Byte) : Counts rs h₀ n h (tr ++ [.wd b]) :=
  hc.snoc (k := 0) fun tail => by
    rw [Nat.zero_add, List.singleton_append]
    rcases tail with - | ⟨e, tail⟩
    · rfl
    · cases e with
      | wc w =>
        show (if signalHigh rs h then 0 else 1) + commandsDone rs w tail = commandsDone rs w tail
        rw [hrs, if_pos rfl, Nat.zero_add]
      | _ => rfl

/-- A data byte written with RS low, and the control write after it, complete one (40_bus_primitives.md R140, step 3). -/
theorem Counts.command (hc : Counts rs h₀ n h tr) (hrs : signalHigh rs h = false) (b w : Byte) :
    Counts rs h₀ (n + 1) w (tr ++ [.wd b] ++ [.wc w]) := by
  rw [List.append_assoc]
  exact hc.snoc fun tail => by
    show commandsDone rs h (.wd b :: .wc w :: tail) = _
    rw [commandsDone, hrs]
    rfl

/-- A data byte after which the control write failed completes none. -/
theorem Counts.failed (hc : Counts rs h₀ n h tr) (b : Byte) (t : Tx) :
    commandsDone rs h₀ (tr ++ [.wd b] ++ [.fails t]) = n := by
  rw [List.append_assoc, hc]
  rfl

end

/-- A transaction succeeds with its event, or fails with its marker. -/
theorem transact_cases (t : Tx) (e : Event) (s : State) :
    (∃ f, transact t e s = .ok ((s.setFaultIn f).emit e)) ∨ transact t e s = .error (s.emit (.fails t)) := by
  unfold transact
  split
  · exact .inl ⟨s.faultIn, rfl⟩
  · exact .inr rfl
  · exact .inl ⟨_, rfl⟩

/-- A step that is one transaction: the run goes on after it, or ends. -/
theorem run_transact_cases {m : Micro} {t : Tx} {e : Event} {u v : State} (hm : perform m u = plain (transact t e v))
    (ms : List Micro) :
    (∃ f, run (m :: ms) u = run ms ((v.setFaultIn f).emit e)) ∨ run (m :: ms) u = onBusFault (v.emit (.fails t)) := by
  rcases transact_cases t e v with ⟨f, h⟩ | h <;> rw [h] at hm
  · exact .inl ⟨f, run_done hm⟩
  · exact .inr (run_error hm)

theorem stepsTo_transact {K Q : State → Prop} {t : Tx} {e : Event} {s : State} (hok : ∀ f, Q ((s.setFaultIn f).emit e))
    (hfail : K (onBusFault (s.emit (.fails t)))) : StepsTo K Q (plain (transact t e s)) := by
  rcases transact_cases t e s with ⟨f, h⟩ | h <;> rw [h]
  · exact hok f
  · exact hfail

/-! ## The block along a run -/

/-- From `s`, the run has completed and recorded the commands `cmds`; `h` is the last control byte written. -/
structure Recorded (s : State) (cmds : List (LcdOp × Byte)) (h : Byte) (u : State) : Prop where
  sig : u.cfg.sig = s.cfg.sig
  faulted : u.faulted = false
  slots : u.cs = PerOp.sent s.cs cmds
  count : Counts s.cfg.sig.rs s.shadow cmds.length h u.trace

/-- The slots hold the first of the commands `all`, as many as the trace completes. -/
def Kept (s : State) (all : List (LcdOp × Byte)) (t : State) : Prop :=
  t.cs = PerOp.sent s.cs (all.take (commandsDone s.cfg.sig.rs s.shadow t.trace))

section
variable {s u : State} {cmds all : List (LcdOp × Byte)} {h : Byte}

theorem kept_of_count (hall : cmds <+: all) (hslots : u.cs = PerOp.sent s.cs cmds)
    (hcount : commandsDone s.cfg.sig.rs s.shadow u.trace = cmds.length) : Kept s all u := by
  obtain ⟨more, rfl⟩ := hall
  rw [Kept, hcount, List.take_left, hslots]

theorem Recorded.kept (hr : Recorded s cmds h u) (hall : cmds <+: all) : Kept s all (onBusFault u) :=
  kept_of_count (u := onBusFault u) hall hr.slots hr.count.done

/-- A run's position between two commands. -/
def Between (s : State) (cmds : List (LcdOp × Byte)) (u : State) : Prop := ∃ h, Recorded s cmds h u

/-- The control byte last written is the shadow, and it gives RS the level `b`. -/
def Driven (s : State) (cmds : List (LcdOp × Byte)) (b : Bool) (u : State) : Prop :=
  Recorded s cmds u.shadow u ∧ signalHigh s.cfg.sig.rs u.shadow = b

/-- The steps complete the commands `new`, in order, and no others, and record each as it is completed. -/
def Sends (s : State) (ms : List Micro) (new : List (LcdOp × Byte)) : Prop :=
  ∀ cmds all, cmds ++ new <+: all → Passes (Kept s all) (Between s cmds) (Between s (cmds ++ new)) ms

theorem Sends.append {a b : List Micro} {new new' : List (LcdOp × Byte)} (ha : Sends s a new) (hb : Sends s b new') :
    Sends s (a ++ b) (new ++ new') := fun cmds all hall => by
  rw [← List.append_assoc] at hall ⊢
  exact (ha cmds all (List.IsPrefix.trans ⟨_, rfl⟩ hall)).append (hb _ all hall)

theorem Sends.flatMap {α : Type} {f : α → List Micro} {g : α → Option (LcdOp × Byte)} (l : List α)
    (hf : ∀ x, Sends s (f x) (g x).toList) : Sends s (l.flatMap f) (l.filterMap g) := by
  induction l with
  | nil => exact fun cmds all _ => .weaken fun _ hu => by rwa [List.filterMap_nil, List.append_nil]
  | cons x l ih =>
    have hcons := (hf x).append ih
    rw [List.flatMap_cons]
    cases hx : g x with
    | none =>
      rw [List.filterMap_cons_none hx]
      rwa [hx] at hcons
    | some c =>
      rw [List.filterMap_cons_some hx]
      rwa [hx] at hcons

/-! ### Steps that write no data byte -/

theorem Recorded.aside (hr : Recorded s cmds h u) {e : Event} (he : e.isAside = true) {w dc dd : Byte} {ins : List Byte} {n : Nat}
    {f : Option Nat} :
    Recorded s cmds h { u with shadow := w, dirControl := dc, dirData := dd, trace := u.trace ++ [e], inputs := ins, reads := n,
                               faultIn := f } :=
  { hr with count := hr.count.aside he }

theorem Recorded.control (hr : Recorded s cmds h u) (w : Byte) {f : Option Nat} :
    Recorded s cmds w (((u.setShadow w).setFaultIn f).emit (.wc w)) :=
  { hr with count := hr.count.control w }

theorem between_pollKeeps (s : State) (cmds : List (LcdOp × Byte)) : PollKeeps (Between s cmds) where
  line _ hb _ := by
    obtain ⟨h, hr⟩ := hb
    exact transact_throughout (fun _ => ⟨_, hr.control _⟩) ⟨h, hr.aside rfl⟩
  port _ hb := by
    obtain ⟨h, hr⟩ := hb
    exact transact_throughout (fun _ => ⟨h, hr.aside rfl⟩) ⟨h, hr.aside rfl⟩
  sample hb := by
    obtain ⟨h, hr⟩ := hb
    exact portIn_throughout (fun _ => ⟨h, hr.aside rfl⟩) ⟨h, hr.aside rfl⟩
  deadline hb := by
    obtain ⟨h, hr⟩ := hb
    exact ⟨h, hr.aside rfl⟩

/-- A step that writes no data byte and records no command. -/
def Micro.isQuiet : Micro → Bool
  | .dataOut _ => false
  | .record _ _ => false
  | _ => true

theorem Between.perform_quiet (hb : Between s cmds u) {m : Micro} (hm : m.isQuiet = true) :
    Ends (Between s cmds) (perform m u) := by
  obtain ⟨h, hr⟩ := hb
  cases m with
  | signal m on => exact Throughout.ends_plain (transact_throughout (fun _ => ⟨_, hr.control _⟩) ⟨h, hr.aside rfl⟩)
  | dir p m input =>
    cases p <;> exact Throughout.ends_plain (transact_throughout (fun _ => ⟨h, hr.aside rfl⟩) ⟨h, hr.aside rfl⟩)
  | dataOut b => cases hm
  | record op v => cases hm
  | sample =>
    exact ends_sample ((between_pollKeeps s cmds).sample ⟨h, hr⟩) fun _ _ ⟨h, hr⟩ => ⟨h, { hr with }⟩
  | wait => exact (between_pollKeeps s cmds).waitReady ⟨h, hr⟩
  | poll n => exact (between_pollKeeps s cmds).busyPoll _ n ⟨h, hr⟩
  | delay t => exact ⟨h, hr.aside rfl⟩
  | pos k p => cases k <;> exact ⟨h, { hr with }⟩
  | _ => exact ⟨h, { hr with }⟩

theorem passes_quiet {ms : List Micro} (hms : ∀ m ∈ ms, m.isQuiet = true) (hall : cmds <+: all) :
    Passes (Kept s all) (Between s cmds) (Between s cmds) ms :=
  .keeps fun m hm _ hu => .of_ends (hu.perform_quiet (hms m hm)) (fun _ ⟨_, hr⟩ => hr.faulted) (fun _ ⟨_, hr⟩ => hr.kept hall)

theorem sends_quiet {ms : List Micro} (hms : ∀ m ∈ ms, m.isQuiet = true) : Sends s ms [] := fun cmds all hall => by
  rw [List.append_nil] at hall ⊢
  exact passes_quiet hms hall

/-! ### Transfers (40_bus_primitives.md section 4) -/

/-- The command a transfer of PRINT sends, if it is one (42_text_and_memory.md R210). -/
def transferCommand (g : Geometry) : Transfer → Option (LcdOp × Byte)
  | .address c r => some (.setDdramAddress, ddram g c r)
  | .block _ => none

theorem commandsOf_print (s : State) (g : Geometry) (text : List Byte) :
    commandsOf s g (.print text) = (layoutText g text s.col s.row).transfers.filterMap (transferCommand g) :=
  congrArg (List.filterMap · _) (funext fun x => by cases x <;> rfl)

/-- A signal switched, when that settles RS. -/
theorem passes_signal {P : State → Prop} {m : Byte} {on b : Bool} (hall : cmds <+: all)
    (hP : ∀ u, P u → Between s cmds u ∧ signalHigh s.cfg.sig.rs (maskBits m on u.shadow) = b) :
    Passes (Kept s all) P (Driven s cmds b) [.signal m on] :=
  .step fun u hu => by
    obtain ⟨⟨h, hr⟩, hrs⟩ := hP u hu
    exact stepsTo_transact (fun _ => ⟨hr.control _, hrs⟩) (Recorded.kept (h := h) (hr.aside rfl) hall)

theorem Driven.between {b : Bool} (hu : Driven s cmds b u) : Between s cmds u := ⟨_, hu.1⟩

/-- A data byte written with RS high. -/
theorem passes_data (hall : cmds <+: all) (b : Byte) : Passes (Kept s all) (Driven s cmds true) (Driven s cmds true) [.dataOut b] :=
  .step fun _ ⟨hr, hrs⟩ =>
    stepsTo_transact (fun _ => ⟨{ hr with count := hr.count.data hrs b }, hrs⟩) (Recorded.kept (hr.aside rfl) hall)

/-- A data byte written with RS low, the control write that completes the command, and its record. -/
theorem passes_sent {op : LcdOp} {v : Byte} (hall : cmds ++ [(op, v)] <+: all) (b m : Byte) :
    Passes (Kept s all) (Driven s cmds false) (Between s (cmds ++ [(op, v)])) [.dataOut b, .signal m false, .record op v] := by
  intro rest u ⟨hr, hrs⟩ hrest
  have hcmds : cmds <+: all := List.IsPrefix.trans ⟨_, rfl⟩ hall
  show OnFault _ (run (.dataOut b :: .signal m false :: .record op v :: rest) u)
  rcases run_transact_cases (m := .dataOut b) (u := u) rfl _ with ⟨f, hdata⟩ | hdata <;> rw [hdata]
  · rcases run_transact_cases (m := .signal m false) (u := (u.setFaultIn f).emit (.wd b)) rfl _ with ⟨f', hcontrol⟩ | hcontrol <;>
      rw [hcontrol]
    · refine hrest _ ⟨maskBits m false u.shadow, hr.sig, hr.faulted, ?_, ?_⟩
      · rw [PerOp.sent_concat, ← hr.slots]
        rfl
      · rw [List.length_append]
        exact hr.count.command hrs b _
    · exact fun _ => kept_of_count hcmds hr.slots (hr.count.failed b _)
  · exact fun _ => Recorded.kept (h := u.shadow) (hr.aside rfl) hcmds

section
variable (hsg : s.cfg.sig.wf = true)
include hsg

/-- RS's level after it, or another line, is switched. -/
theorem signalHigh_rs_maskBits (x : Byte) :
    signalHigh s.cfg.sig.rs (maskBits (s.cfg.sig.rs ||| s.cfg.sig.rw) false x) = false ∧
      signalHigh s.cfg.sig.rs (maskBits s.cfg.sig.rs true x) = true ∧
      ∀ on, signalHigh s.cfg.sig.rs (maskBits s.cfg.sig.en on x) = signalHigh s.cfg.sig.rs x := by
  have hrs : s.cfg.sig.rs ≠ 0x00#8 := fun h0 => by
    have hself := (Laws.Encoding.lines hsg).2.1
    rw [h0] at hself
    exact absurd hself (by decide)
  refine ⟨?_, ?_, fun on => ?_⟩ <;> unfold signalHigh
  · have hcovered : s.cfg.sig.rs &&& ~~~(s.cfg.sig.rs ||| s.cfg.sig.rw) = 0x00#8 := by
      rw [BitVec.not_or, ← BitVec.and_assoc, BitVec.and_not_self]
      exact BitVec.zero_and
    rw [maskBits_false_and_of_covers x hcovered]
    rfl
  · rw [maskBits_true_and_self]
    exact decide_eq_true hrs
  · rw [maskBits_and_of_disjoint on x (and_zero_comm (SigMap.wf_disjoint hsg).rs_en)]

theorem sends_command (op : LcdOp) (v : Byte) : Sends s (command s.cfg.sig op v) [(op, v)] := fun cmds all hall => by
  have hcmds : cmds <+: all := List.IsPrefix.trans ⟨_, rfl⟩ hall
  have hlow := passes_signal (b := false) hcmds fun u (hu : Between s cmds u) =>
    ⟨hu, (signalHigh_rs_maskBits hsg u.shadow).1⟩
  have hpulse := passes_signal (b := false) hcmds fun u (hu : Driven s cmds false u) =>
    ⟨hu.between, ((signalHigh_rs_maskBits hsg u.shadow).2.2 true).trans hu.2⟩
  exact (passes_quiet (by decide) hcmds).append (a := [.wait]) (hlow.cons (hpulse.cons (passes_sent hall _ _)))

theorem passes_blockByte (hcmds : cmds <+: all) (b : Byte) :
    Passes (Kept s all) (Driven s cmds true) (Driven s cmds true) (blockByte s.cfg.sig b) := by
  have hpulse : ∀ on, Passes (Kept s all) (Driven s cmds true) (Driven s cmds true) [.signal s.cfg.sig.en on] := fun on =>
    passes_signal hcmds fun u hu => ⟨hu.between, ((signalHigh_rs_maskBits hsg u.shadow).2.2 on).trans hu.2⟩
  exact (hpulse true).cons ((passes_data hcmds b).cons (hpulse false))

theorem passes_blockBytes (hcmds : cmds <+: all) (bs : List Byte) :
    Passes (Kept s all) (Driven s cmds true) (Driven s cmds true) (bs.flatMap (blockByte s.cfg.sig)) := by
  induction bs with
  | nil => exact .weaken fun _ hu => hu
  | cons b bs ih => exact (passes_blockByte hsg hcmds b).append ih

theorem sends_writeBlock (bs : List Byte) : Sends s (writeBlock s.cfg.sig bs) [] := by
  cases bs with
  | nil => exact sends_quiet nofun
  | cons b bs =>
    intro cmds all hall
    rw [List.append_nil] at hall ⊢
    have hhigh := passes_signal (b := true) hall fun u (hu : Between s cmds u) =>
      ⟨hu, (signalHigh_rs_maskBits hsg u.shadow).2.1⟩
    have hstart := (passes_quiet (ms := [.wait, .signal s.cfg.sig.rw false]) (by simp [Micro.isQuiet]) hall).append hhigh
    have hbytes := (passes_blockBytes hsg hall (b :: bs)).append (.weaken fun _ hu => hu.between)
    have hend := passes_quiet (s := s) (ms := [.signal (lineMask s.cfg.sig) false]) (by simp [Micro.isQuiet]) hall
    have hblock := hstart.append (hbytes.append hend)
    rwa [List.append_nil] at hblock

theorem sends_transferSteps (g : Geometry) (t : Transfer) :
    Sends s (transferSteps s.cfg.sig g t) (transferCommand g t).toList := by
  cases t with
  | address c r => exact sends_command hsg _ _
  | block bs => exact sends_writeBlock hsg bs

end

end

end Sys2Proof.Machine
end

section
/-! OBLIGATION. What a bus fault leaves as before (60_exceptions.md R274 (c) to (e), (g)). -/

namespace Sys2Proof.Machine

/-! ## The commands of an instruction are what its steps send -/

section
variable (sg : SigMap)

theorem quiet_readBlock (n : Nat) : ∀ m ∈ readBlock sg n, m.isQuiet = true := by
  cases n <;> simp [readBlock, readCycles, readByte, Micro.isQuiet, or_imp, forall_and]

theorem quiet_setWiper (k : Pot) (p target : Nat) : ∀ m ∈ setWiper sg k p target, m.isQuiet = true := by
  unfold setWiper
  dsimp only
  split <;> simp [burst, burstPulse, Micro.isQuiet, or_imp, forall_and]

theorem quiet_potPowerOn (k : Pot) (p : Nat) : ∀ m ∈ potPowerOn sg k p, m.isQuiet = true := by
  have := quiet_setWiper sg k p 0
  simpa [potPowerOn, Micro.isQuiet] using this

end

section
variable {s : State} (hsg : s.cfg.sig.wf = true)
include hsg

theorem sends_initProtocol (g : Geometry) :
    Sends s (initProtocol s.cfg g) (List.replicate 3 (.functionSet, fsValue s.cfg g)
      ++ [(.displayCtrl, 0x00), (.clear, 0x00), (.entryMode, 0x02), (.displayCtrl, 0x04)]) := by
  have hinit : ∀ op v t, Sends s (initCommand s.cfg.sig op v t) [(op, v)] := fun op v t =>
    (sends_command hsg op v).append (sends_quiet (by simp [Micro.isQuiet]))
  have hstart : Sends s [.ctrl .initializing, .mode .timedDelay] [] := sends_quiet (by decide)
  have hend : Sends s [.cursor 0 0, .mode .busyPoll, .ctrl .ready] [] := sends_quiet (by decide)
  exact (((((((hstart.append (hinit _ _ _)).append (hinit _ _ _)).append (hinit _ _ _)).append (hinit _ _ _)).append
    (hinit _ _ _)).append (hinit _ _ _)).append (hinit _ _ _)).append hend

theorem sends_powerOn (g : Geometry) : Sends s (powerOnSteps s g) (commandsOf s g .powerOn) := by
  have hports : Sends s (lcdPortsOut s.cfg.sig) [] := sends_quiet (by simp [lcdPortsOut, Micro.isQuiet])
  have hpots : ∀ k p, Sends s (potPowerOn s.cfg.sig k p) [] := fun k p => sends_quiet (quiet_potPowerOn _ k p)
  have hpower : Sends s [.signal s.cfg.sig.pwr true, .powered true] [] := sends_quiet (by simp [Micro.isQuiet])
  exact ((((hports.append (hpots _ _)).append (hpots _ _)).append hpower).append (sends_initProtocol hsg g)).append
    (sends_quiet (ms := [.respond]) (by decide))

/-- A command, then bookkeeping. -/
theorem sends_command_then (op : LcdOp) (v : Byte) {tail : List Micro} (htail : ∀ m ∈ tail, m.isQuiet = true) :
    Sends s (command s.cfg.sig op v ++ tail) [(op, v)] := (sends_command hsg op v).append (sends_quiet htail)

theorem sends_program {i : Instr} {g : Geometry} {ms : List Micro} (hi : i.slots ≠ []) (hp : program s i g = .ok ms) :
    Sends s ms (commandsOf s g i) := by
  have hrespond : ∀ m ∈ [Micro.respond], m.isQuiet = true := by decide
  have hcursor : ∀ c r, ∀ m ∈ [Micro.cursor c r, .respond], m.isQuiet = true := fun c r => by simp [Micro.isQuiet]
  cases hop : i.lcdOperands with
  | some x =>
    rw [(isCommand_of_lcdOperands hop).steps s g] at hp
    cases hp
    have hcommands : commandsOf s g i = i.lcdOperands.toList := by
      cases i with
      | hdClear | hdHome | hdEntryMode | hdDisplayCtrl | hdShift | hdFunctionSet | hdSetCgramAddress | hdSetDdramAddress => rfl
      | _ => cases hop
    rw [hcommands, hop]
    exact sends_command_then hsg _ _ hrespond
  | none =>
    cases i with
    | powerOn => cases hp; exact sends_powerOn hsg g
    | clear | home => cases hp; exact sends_command_then hsg _ _ (hcursor 0 0)
    | setCursor col row => cases hp; exact sends_command_then hsg _ _ (hcursor _ _)
    | setBlink on | setCursorVisible on | setDisplayVisible on => cases hp; exact sends_command_then hsg _ _ hrespond
    | print text =>
      cases hp
      have htext : Sends s (printSteps s g text) (_ ++ []) :=
        (Sends.flatMap (layoutText g text s.col s.row).transfers (sends_transferSteps hsg g)).append
          (sends_quiet (hcursor _ _))
      rwa [List.append_nil, ← commandsOf_print] at htext
    | defineGlyph index bitmap =>
      rw [program, glyphSteps] at hp
      split at hp <;> cases hp
      exact (((sends_command hsg _ _).append (sends_writeBlock hsg bitmap)).append (sends_command hsg _ _)).append
        (sends_quiet hrespond)
    | readRow row =>
      rw [program, readRowSteps] at hp
      split at hp <;> cases hp
      exact (((sends_command hsg _ _).append (sends_quiet (quiet_readBlock _ _))).append (sends_command hsg _ _)).append
        (sends_quiet hrespond)
    | hdClear | hdHome | hdEntryMode | hdDisplayCtrl | hdShift | hdFunctionSet | hdSetCgramAddress | hdSetDdramAddress => cases hop
    | _ => exact absurd rfl hi

end

/-- A faulted run's slots are those of the commands it completed. -/
theorem kept_of_sends {s : State} {ms : List Micro} {new : List (LcdOp × Byte)} (h : Sends s ms new) (hs : s.faulted = false) :
    OnFault (Kept s new) (run ms s.begin) :=
  (h [] new ⟨[], List.append_nil _⟩).onFault (fun _ ⟨_, hr⟩ => hr.faulted) ⟨s.shadow, rfl, hs, rfl, Counts.nil⟩

/-- An instruction that writes no slot sends no command to count. -/
theorem commandsOf_of_slots {i : Instr} (h : i.slots = []) (s : State) (g : Geometry) : commandsOf s g i = [] := by
  cases i with
  | powerOff | setContrast | setBacklight | close | contrastInc | contrastDec | backlightInc | backlightDec
  | busInstructionWrite | busBusyRead | busDataWrite | busDataRead => rfl
  | _ => cases h

/-- A commandShadow is its slots. -/
theorem perOp_ext_get {cs cs' : PerOp Byte} (h : ∀ op, cs.get op = cs'.get op) : cs = cs' := by
  obtain ⟨⟩ := cs
  obtain ⟨⟩ := cs'
  simp only [PerOp.mk.injEq]
  exact ⟨h .clear, h .home, h .entryMode, h .displayCtrl, h .shift, h .functionSet, h .setCgramAddress, h .setDdramAddress⟩

/-- Settles O28, field by field: a request's bookkeeping of a field comes after its transactions, or is of another field; and the
slots are counted along the run. -/
theorem faultKeeps : Obligations.FaultKeeps := by
  intro i s t h hs ht
  have hframe := framed_exec h
  rcases exec_outcome h with ⟨-, rfl⟩ | ⟨g, hg, ⟨e, -, rfl⟩ | ⟨-, ⟨-, rfl⟩ | ⟨ms, hp, rfl⟩⟩⟩
  · exact flag_absurd ht hs
  · exact flag_absurd ht hs
  · exact flag_absurd ht hs
  refine ⟨fun hi => ?_, fun hon => ?_, fun hon => ?_, fun g' hg' hsg => ?_⟩
  · have hkept := (guarded_sendsOne hi hp).onFault hs ht
    exact perOp_ext_get fun op => hkept.slots op List.not_mem_nil
  · cases hi : i.movesCursor with
    | false => exact hframe.cursor hi
    | true => exact ((guarded_movesCursor hi hon hp).onFault hs ht).cursor rfl
  · by_cases hi : wipers i = []
    · exact ⟨hframe.contrast (by rw [footprint, hi]; exact List.not_mem_nil),
        hframe.backlight (by rw [footprint, hi]; exact List.not_mem_nil)⟩
    · have hkept := (guarded_wipers hi hon hp).onFault hs ht
      exact ⟨hkept.contrast List.not_mem_nil, hkept.backlight List.not_mem_nil⟩
  · cases hg.symm.trans hg'
    by_cases hi : i.slots = []
    · rw [commandsOf_of_slots hi, List.take_nil]
      exact perOp_ext_get fun op => hframe.slots op (by rw [footprint, hi]; exact List.not_mem_nil)
    · exact kept_of_sends (sends_program hsg hi hp) hs ht

end Sys2Proof.Machine
end

section
/-! OBLIGATION. The FUNCTION_SET value of initialisation (41_lcd_control.md R170), and SET_CURSOR's arguments modulo the geometry
(R178). -/

namespace Sys2Proof.Machine

/-- Settles O37, by the declared row count, and for one row by the parameter. -/
theorem functionSetValue_law : Obligations.FunctionSetValue := by
  intro p g
  refine ⟨fun hrows => ?_, fun hrow hn => ?_, fun hrow hn => ?_⟩
  · rw [fsValue, if_neg hrows]
    rfl
  · rw [fsValue, if_pos hrow, hn]
    rfl
  · rw [fsValue, if_pos hrow, hn]
    rfl

/-- A request is served by its steps for the block's own geometry alone. -/
theorem serve_congr {s : State} {g : Geometry} (hg : s.geom = some g) (needReady : Bool)
    {prog prog' : Geometry → Except Status (List Micro)} (h : prog g = prog' g) :
    serve needReady prog s = serve needReady prog' s := by
  unfold serve
  rw [hg]
  dsimp only
  rw [h]

/-- Settles O46: the steps of SET_CURSOR name its arguments only modulo the geometry. -/
theorem setCursorWraps : Obligations.SetCursorWraps := by
  intro s g a0 a1 b0 b1 hg hcol hrow
  have hsteps : program s (.setCursor a0 a1) g = program s (.setCursor b0 b1) g := by
    simp only [program, setCursorSteps, hcol, hrow]
  rw [exec_eq_serve, exec_eq_serve]
  exact congrArg Host.Outcome.next (serve_congr hg true hsteps)

end Sys2Proof.Machine
end

section
/-! OBLIGATION. POWER_ON, POWER_OFF and CLOSE complete (41_lcd_control.md R171 to R175, 43_potentiometer.md R246, R247). -/

namespace Sys2Proof.Machine

/-! ## Parts of the pseudocode, one after the other -/

/-- From `s` the steps run through to `t`, whatever is left to run after them. -/
def Runs (ms : List Micro) (s t : State) : Prop := ∀ rest, run (ms ++ rest) s = run rest t

section
variable {s t u : State} {a b ms : List Micro}

theorem Runs.append (h : Runs a s t) (k : Runs b t u) : Runs (a ++ b) s u := fun rest => by rw [List.append_assoc, h, k]

/-- A request whose last step answers. -/
theorem Runs.respond (h : Runs ms s t) : run (ms ++ [.respond]) s = t.answer { status := .ok, data := t.out } := h _

end

section
variable {s : State} {sg : SigMap} {h dc dd : Byte} {tr : List Event} {n : Nat}

/-- Steps that only drive the pins. -/
theorem Runs.drives {p : Pins} {ms : List Micro} (hm : ms.all Micro.drives = true) (hf : NoFault s (tr ++ p.events ms)) :
    Runs ms (s.at p tr n) (s.at (p.after ms) (tr ++ p.events ms) n) := fun rest => run_drives ms rest hm hf

/-! ## POWER_OFF and CLOSE -/

/-- The block as POWER_OFF leaves it, but for its pins (R174). -/
def State.poweredOff (s : State) : State := { s with powered := false, ctrl := .uninitialized, waitMode := .timedDelay }

/-- POWER_OFF's body: three transactions, then the modes are tracked (R174). -/
theorem runs_powerOffBody {d1 d2 w : Byte} (h1 : d1 = dc ||| (sg.ccs ||| sg.ud)) (h2 : d2 = d1 ||| (sg.bcs ||| sg.ud))
    (hw : w = h &&& ~~~sg.pwr) (hf : NoFault s (tr ++ [.dir .control d1, .dir .control d2, .wc w])) :
    Runs (powerOffBody sg) (s.bus h dc dd tr n)
      (s.poweredOff.bus w d2 dd (tr ++ [.dir .control d1, .dir .control d2, .wc w]) n) := by
  subst h1 h2 hw
  have hpins := Runs.drives (s := s) (p := ⟨h, dc, dd⟩) (tr := tr) (n := n)
    (ms := [.dir .control (sg.ccs ||| sg.ud) true, .dir .control (sg.bcs ||| sg.ud) true, .signal sg.pwr false]) rfl hf
  exact hpins.append (b := [.powered false, .ctrl .uninitialized, .mode .timedDelay]) fun _ => rfl

/-- Every pin an input (R175). -/
theorem runs_allInputs (hf : NoFault s (tr ++ [.dir .control 0xFF, .dir .data 0xFF])) :
    Runs [.dir .control 0xFF true, .dir .data 0xFF true] (s.bus h dc dd tr n)
      (s.bus h 0xFF 0xFF (tr ++ [.dir .control 0xFF, .dir .data 0xFF]) n) := by
  have hall : ∀ v, maskBits 0xFF true v = 0xFF := maskBits_all true
  have hpins := Runs.drives (s := s) (p := ⟨h, dc, dd⟩) (tr := tr) (n := n)
    (ms := [.dir .control 0xFF true, .dir .data 0xFF true]) rfl
  simp only [Pins.events, Pins.event, Pins.after, Pins.step, hall, List.cons_append, List.nil_append] at hpins
  exact hpins hf

end

/-- Settles O55: the body of POWER_OFF, and for CLOSE every pin made an input after it. -/
theorem powerOffCloseResult : Obligations.PowerOffCloseResult := by
  intro s g hs sg d1 d2 h off
  have hbody : NoFault s [.dir .control d1, .dir .control d2, .wc h] →
      Runs (powerOffBody sg) (s.begin.bus s.shadow s.dirControl s.dirData [] 0)
        (off.begin.bus h d2 s.dirData [.dir .control d1, .dir .control d2, .wc h] 0) :=
    runs_powerOffBody (s := s.begin) (tr := []) rfl rfl rfl
  refine ⟨fun hf => ?_, fun hf => ?_⟩
  · rw [exec_of_admits hs rfl rfl, (hbody hf).respond]
    rfl
  · have hinputs := runs_allInputs (s := off.begin) (h := h) (dc := d2) (dd := s.dirData) (n := 0)
      (tr := [.dir .control d1, .dir .control d2, .wc h]) hf
    have hclose := ((hbody (NoFault.mono (b := [.dir .control 0xFF, .dir .data 0xFF]) hf)).append hinputs).append
      (b := [.close]) fun _ => rfl
    rw [exec_of_admits hs rfl rfl]
    exact congrArg Host.Outcome.next hclose.respond

/-! ## POWER_ON -/

section
variable {s : State} {sg : SigMap} {h dc dd : Byte} {tr : List Event} {n : Nat}

/-- The LCD's pins and the data port made outputs (R171). -/
theorem runs_lcdPortsOut {d : Byte} (hd : d = dc &&& ~~~(lineMask sg ||| sg.pwr))
    (hf : NoFault s (tr ++ [.dir .control d, .dir .data 0x00])) :
    Runs (lcdPortsOut sg) (s.bus h dc dd tr n) (s.bus h d 0x00 (tr ++ [.dir .control d, .dir .data 0x00]) n) := by
  subst hd
  have hnone : maskBits 0xFF false dd = 0x00 := maskBits_all false dd
  have hpins := Runs.drives (s := s) (p := ⟨h, dc, dd⟩) (tr := tr) (n := n) (ms := lcdPortsOut sg) rfl
  simp only [lcdPortsOut, Pins.events, Pins.event, Pins.after, Pins.step, hnone, List.cons_append, List.nil_append] at hpins
  exact hpins hf

/-- A potentiometer deselected, then pulsed down to 0 (43_potentiometer.md R246). -/
theorem runs_potPowerOn (hsg : s.cfg.sig = sg) (k : Pot) (hu : sg.ud &&& selectMask sg k = 0x00#8) {d w : Byte}
    (hd : d = dc &&& ~~~(selectMask sg k ||| sg.ud)) (hw : w = h ||| selectMask sg k)
    (hf : NoFault s (tr ++ [.dir .control d, .wc w] ++ wiperTrace sg (selectMask sg k) w (s.posOf k) 0)) :
    Runs (potPowerOn sg k (s.posOf k)) (s.bus h dc dd tr n)
      ((s.setPosOf k 0).bus (wiperShadow sg (selectMask sg k) w (s.posOf k) 0) d dd
        (tr ++ [.dir .control d, .wc w] ++ wiperTrace sg (selectMask sg k) w (s.posOf k) 0) n) := by
  subst hd hw
  have hpins := Runs.drives (s := s) (p := ⟨h, dc, dd⟩) (tr := tr) (n := n)
    (ms := [.dir .control (selectMask sg k ||| sg.ud) false, .signal (selectMask sg k) true]) rfl hf.mono
  exact hpins.append (run_setWiper hsg k 0 hu hf)

/-- PWR high (R173). -/
theorem runs_power {w : Byte} (hw : w = h ||| sg.pwr) (hf : NoFault s (tr ++ [.wc w])) :
    Runs [.signal sg.pwr true, .powered true] (s.bus h dc dd tr n) ((s.setPowered true).bus w dc dd (tr ++ [.wc w]) n) := by
  subst hw
  have hpins := Runs.drives (s := s) (p := ⟨h, dc, dd⟩) (tr := tr) (n := n) (ms := [.signal sg.pwr true]) rfl hf
  exact hpins.append (b := [.powered true]) fun _ => rfl

/-! ### Initialisation (R172) -/

/-- The block in the middle of initialisation, but for its pins. -/
def State.initialising (s : State) (cs : PerOp Byte) : State :=
  { s with cs := cs, waitMode := .timedDelay, ctrl := .initializing }

/-- A command of initialisation, which waits for nothing, and its delay. -/
theorem runs_initCommand (hsg : s.cfg.sig = sg) {cs : PerOp Byte} (op : LcdOp) (v : Byte) (t : TimeParam) {b w : Byte}
    (hb : b = lcdOpcode op ||| v) (hw : h &&& ~~~(lineMask sg) = w) (hf : NoFault s (tr ++ rawCmd sg h b ++ [.dly t])) :
    Runs (initCommand sg op v t) ((s.initialising cs).bus h dc dd tr n)
      ((s.initialising (cs.set op v)).bus w dc dd (tr ++ rawCmd sg h b ++ [.dly t]) n) := by
  subst hb hw
  have hcommand : Runs (command sg op v) ((s.initialising cs).bus h dc dd tr n) _ :=
    run_command_timed (s := s.initialising cs) hsg op v rfl hf.mono
  exact hcommand.append
    (.drives (s := s.initialising (cs.set op v)) (p := ⟨h &&& ~~~(lineMask sg), dc, dd⟩) (ms := [.delay t]) rfl hf)

/-- The block as initialisation with the FUNCTION_SET value `fs` leaves it, but for its pins. -/
def State.initialised (s : State) (fs : Byte) : State :=
  { s with
    cs := { s.cs with functionSet := fs, displayCtrl := 0x04, clear := 0x00, entryMode := 0x02 }
    col := 0
    row := 0
    waitMode := .busyPoll
    ctrl := .ready }

/-- The seven commands of initialisation, the first from any control byte, the others from idle lines. -/
theorem runs_initProtocol {p : Params} (hp : s.cfg = p) (g : Geometry)
    (hf : NoFault s (tr ++ initTrace p.sig h (0x20 ||| fsValue p g))) :
    Runs (initProtocol p g) (s.bus h dc dd tr n)
      ((s.initialised (fsValue p g)).bus (h &&& ~~~(lineMask p.sig)) dc dd
        (tr ++ initTrace p.sig h (0x20 ||| fsValue p g)) n) := by
  have hsg : s.cfg.sig = p.sig := by rw [hp]
  have hlow : h &&& ~~~(lineMask p.sig) &&& ~~~(lineMask p.sig) = h &&& ~~~(lineMask p.sig) := by
    rw [BitVec.and_assoc, BitVec.and_self]
  simp only [initTrace, ← List.append_assoc] at hf ⊢
  have f6 := hf.mono.mono
  have f5 := f6.mono.mono
  have f4 := f5.mono.mono
  have f3 := f4.mono.mono
  have f2 := f3.mono.mono
  have f1 := f2.mono.mono
  have hstart : Runs [.ctrl .initializing, .mode .timedDelay] (s.bus h dc dd tr n)
      ((s.initialising s.cs).bus h dc dd tr n) := fun _ => rfl
  have c1 := hstart.append (runs_initCommand hsg .functionSet (fsValue p g) .fs1 rfl rfl f1)
  have c2 := c1.append (runs_initCommand hsg .functionSet (fsValue p g) .fs2 rfl hlow f2)
  have c3 := c2.append (runs_initCommand hsg .functionSet (fsValue p g) .fs3 rfl hlow f3)
  have c4 := c3.append (runs_initCommand hsg .displayCtrl 0x00 (.exec .displayCtrl) rfl hlow f4)
  have c5 := c4.append (runs_initCommand hsg .clear 0x00 (.exec .clear) rfl hlow f5)
  have c6 := c5.append (runs_initCommand hsg .entryMode 0x02 (.exec .entryMode) rfl hlow f6)
  have c7 := c6.append (runs_initCommand hsg .displayCtrl 0x04 (.exec .displayCtrl) rfl hlow hf)
  exact c7.append fun _ => rfl

end

/-- Settles O54: the parts of POWER_ON's pseudocode, one after the other. -/
theorem powerOnResult : Obligations.PowerOnResult := by
  intro s g hs hsig sg fs d1 d2 d3 h1 h2 h3 h4 h5 tr hf
  have hd : sg.Disjoint := SigMap.wf_disjoint hsig
  have hud : ∀ k, sg.ud &&& selectMask sg k = 0x00#8
    | .contrast => and_zero_comm hd.ccs_ud
    | .backlight => and_zero_comm hd.bcs_ud
  have fpower := hf.mono
  have fbacklight := fpower.mono
  have fcontrast := fbacklight.mono.mono
  have fports : NoFault s [.dir .control d1, .dir .data 0x00] := NoFault.mono (b := [.dir .control d2, .wc h1]) fcontrast.mono
  have hports : Runs (lcdPortsOut sg) (s.begin.bus s.shadow s.dirControl s.dirData [] 0) _ :=
    runs_lcdPortsOut (s := s.begin) (tr := []) (d := d1) rfl fports
  have hcontrast := hports.append
    (runs_potPowerOn (s := s.begin) (sg := sg) rfl .contrast (hud _) (d := d2) (w := h1) rfl rfl fcontrast)
  have hbacklight := hcontrast.append
    (runs_potPowerOn (s := s.begin.setPosOf .contrast 0) rfl .backlight (hud _) (d := d3) (w := h3) rfl rfl fbacklight)
  have hpower := hbacklight.append
    (runs_power (s := (s.begin.setPosOf .contrast 0).setPosOf .backlight 0) (w := h5) rfl fpower)
  have hinit := hpower.append
    (runs_initProtocol (s := ((s.begin.setPosOf .contrast 0).setPosOf .backlight 0).setPowered true) rfl g hf)
  rw [exec_of_admits hs rfl rfl]
  exact congrArg Host.Outcome.next hinit.respond

end Sys2Proof.Machine
end

section
/-! OBLIGATION. Where a bus fault of POWER_ON leaves the block (60_exceptions.md R274 (e) to (g); 41_lcd_control.md R173,
43_potentiometer.md R246). -/

namespace Sys2Proof.Machine

/-! ## The block along POWER_ON -/

/-- A block in the phase `ph` of a POWER_ON given in `s`, before the cursor is homed. -/
structure Underway (s : State) (ph : Phase) (u : State) : Prop where
  phase : u.phase = ph
  contrast : u.contrast = 0 ∨ u.contrast = s.contrast
  backlight : u.backlight = 0 ∨ u.backlight = s.backlight
  col : u.col = s.col
  row : u.row = s.row

/-- What a fault of POWER_ON leaves, `m` transactions being before initialisation (R274 (e) to (g)). -/
def Interrupted (s : State) (m : Nat) (t : State) : Prop :=
  (t.trace.length ≤ m → t.ctrl = s.ctrl ∧ t.waitMode = s.waitMode ∧ t.powered = s.powered) ∧
  (m < t.trace.length → t.ctrl = .initializing ∧ t.waitMode = .timedDelay ∧ t.powered = true) ∧
  (t.contrast = 0 ∨ t.contrast = s.contrast) ∧ (t.backlight = 0 ∨ t.backlight = s.backlight) ∧
  t.col = s.col ∧ t.row = s.row ∧ t.closed = false

/-- Before initialisation, after `n` events. -/
def Preparing (s : State) (n : Nat) (u : State) : Prop := Underway s s.phase u ∧ u.trace.length = n

/-- In the phase `ph`, after at least the `m` events before initialisation. -/
def Prepared (s : State) (ph : Phase) (m : Nat) (u : State) : Prop := Underway s ph u ∧ m ≤ u.trace.length

/-- The phase of a POWER_ON given in `s` once PWR is high. -/
def State.poweredPhase (s : State) : Phase := { s.phase with powered := true }

/-- A step that drives the pins or delays is bus traffic of one event, whether or not it faults. -/
theorem perform_drives_busied {m : Micro} (hm : m.drives = true) (u : State) :
    Ends (fun t => Busied u t ∧ t.trace.length = u.trace.length + 1) (perform m u) := by
  have hone : ∀ {t : Tx} {e : Event} {v : State}, Busied u v → v.trace = u.trace →
      Ends (fun t => Busied u t ∧ t.trace.length = u.trace.length + 1) (plain (transact t e v)) := fun hv htr =>
    Throughout.ends_plain (transact_throughout (fun _ => ⟨hv.trans rfl, by simp [htr]⟩) ⟨hv.trans rfl, by simp [htr]⟩)
  cases m with
  | signal m on => exact hone rfl rfl
  | dir p m input => cases p <;> exact hone rfl rfl
  | dataOut b => exact hone (.refl u) rfl
  | delay d => exact ⟨rfl, List.length_append⟩
  | _ => cases hm

/-- Bus traffic leaves all that is said of the block. -/
theorem Underway.busied {s u t : State} {ph : Phase} (h : Underway s ph u) (ht : Busied u t) : Underway s ph t := by
  rw [Busied] at ht
  rw [ht]
  exact ⟨h.phase, h.contrast, h.backlight, h.col, h.row⟩

section
variable {s : State} {g : Geometry} (hs : Admits s g) {m n : Nat}
include hs

/-! ## Before initialisation -/

theorem Preparing.faulted {u : State} (h : Preparing s n u) : u.faulted = false :=
  (congrArg Phase.faulted h.1.phase :).trans hs.faulted

theorem Preparing.interrupted {t : State} (h : Preparing s n t) (hn : n ≤ m) : Interrupted s m (onBusFault t) := by
  obtain ⟨hway, rfl⟩ := h
  have hctrl : t.ctrl = s.ctrl := congrArg Phase.ctrl hway.phase
  have hmode : t.waitMode = s.waitMode := congrArg Phase.mode hway.phase
  have hpowered : t.powered = s.powered := congrArg Phase.powered hway.phase
  have hclosed : t.closed = s.closed := congrArg Phase.closed hway.phase
  exact ⟨fun _ => ⟨hctrl, hmode, hpowered⟩, fun hlt => absurd hn (Nat.not_le.2 hlt), hway.contrast, hway.backlight, hway.col,
    hway.row, hclosed.trans hs.closed⟩

/-- Steps that drive the pins, of which each is one event. -/
theorem passes_preparing {ms : List Micro} (hms : ∀ x ∈ ms, x.drives = true) (hn : n + ms.length ≤ m) :
    Passes (Interrupted s m) (Preparing s n) (Preparing s (n + ms.length)) ms := by
  induction ms generalizing n with
  | nil => exact .weaken fun _ hu => hu
  | cons x xs ih =>
    obtain ⟨hx, hxs⟩ := List.forall_mem_cons.1 hms
    have hlen : n + (x :: xs).length = n + 1 + xs.length := by rw [List.length_cons]; omega
    rw [hlen] at hn ⊢
    have hstep : Passes (Interrupted s m) (Preparing s n) (Preparing s (n + 1)) [x] := .step fun u ⟨hway, hu⟩ =>
      .of_ends ((perform_drives_busied hx u).mono fun t ⟨hb, ht⟩ => ⟨hway.busied hb, hu ▸ ht⟩) (fun _ ht => Preparing.faulted hs ht)
        (fun _ ht => Preparing.interrupted hs ht (by omega))
    exact hstep.cons (ih hxs hn)

end

/-- How many events bring a wiper from `p` down to 0 (43_potentiometer.md R244, R245). -/
def wiperEvents (p : Nat) : Nat := if p = 0 then 0 else 2 * p + 3

/-- How many transactions POWER_ON makes before initialisation: the directions, both potentiometers, PWR (R173). -/
def setupEvents (s : State) : Nat := 7 + wiperEvents s.contrast + wiperEvents s.backlight

/-- A wiper taken to 0: nothing, or one burst downward (R245). -/
theorem setWiper_zero (sg : SigMap) (k : Pot) (p : Nat) :
    setWiper sg k p 0 = if p = 0 then [] else burst sg k false p ++ [.pos k 0] := by
  by_cases hp : p = 0
  · subst hp
    rfl
  · have hdiff : ((clampWiper 0 : Nat) : Int) - (p : Int) = -p := Int.zero_sub _
    have hmoves : -(p : Int) ≠ 0 := by omega
    have hdown : ¬(0 : Int) < -p := by omega
    simp only [setWiper, hdiff, if_neg hmoves, if_neg hp, decide_eq_false hdown, Int.natAbs_neg, Int.natAbs_natCast]
    rfl

theorem drives_burst (sg : SigMap) (k : Pot) (d : Bool) (n : Nat) : ∀ x ∈ burst sg k d n, x.drives = true := by
  simp [burst, burstPulse, Micro.drives, or_imp, forall_and]

theorem length_burst (sg : SigMap) (k : Pot) (d : Bool) (n : Nat) : (burst sg k d n).length = 2 * n + 3 := by
  simp [burst, burstPulse]
  omega

/-- The position is tracked after the pulses. -/
theorem passes_pos {K : State → Prop} {s : State} {n : Nat} (k : Pot) :
    Passes K (Preparing s n) (Preparing s n) [.pos k 0] :=
  .step fun u ⟨hway, hu⟩ => by
    cases k with
    | contrast => exact ⟨{ hway with contrast := .inl rfl }, hu⟩
    | backlight => exact ⟨{ hway with backlight := .inl rfl }, hu⟩

/-- PWR is tracked as high (41_lcd_control.md R173). -/
theorem passes_powered {K : State → Prop} {s : State} {m : Nat} :
    Passes K (Preparing s m) (Prepared s s.poweredPhase m) [.powered true] :=
  .step fun _ ⟨hway, hu⟩ =>
    ⟨⟨congrArg (fun ph : Phase => { ph with powered := true }) hway.phase, hway.contrast, hway.backlight, hway.col, hway.row⟩,
      hu.ge⟩

/-- Initialisation begins (R172). -/
theorem passes_starting {K : State → Prop} {s : State} {m : Nat} :
    Passes K (Prepared s s.poweredPhase m) (Prepared s s.poweredPhase.starting m) [.ctrl .initializing, .mode .timedDelay] :=
  fun _ _ ⟨hway, hu⟩ hrest =>
    hrest _ ⟨⟨congrArg Phase.starting hway.phase, hway.contrast, hway.backlight, hway.col, hway.row⟩, hu⟩

/-- A step of a command of initialisation or its delay. -/
def Micro.sends : Micro → Bool
  | .wait => true
  | .record _ _ => true
  | m => m.drives

theorem sends_initCommand (sg : SigMap) (op : LcdOp) (v : Byte) (t : TimeParam) :
    ∀ x ∈ initCommand sg op v t, x.sends = true := by
  simp [initCommand, command, instructionCycle, Micro.sends, Micro.drives]

section
variable {s : State} {g : Geometry} (hs : Admits s g) {m n : Nat}
include hs

theorem passes_potPowerOn (sg : SigMap) (k : Pot) (p : Nat) (hn : n + 2 + wiperEvents p ≤ m) :
    Passes (Interrupted s m) (Preparing s n) (Preparing s (n + 2 + wiperEvents p)) (potPowerOn sg k p) := by
  have hselect : Passes (Interrupted s m) (Preparing s n) (Preparing s (n + 2))
      [.dir .control (selectMask sg k ||| sg.ud) false, .signal (selectMask sg k) true] :=
    passes_preparing hs (ms := [_, _]) (by simp [Micro.drives]) (Nat.le_of_add_right_le hn)
  refine hselect.append ?_
  rw [setWiper_zero]
  by_cases hp : p = 0
  · rw [if_pos hp, wiperEvents, if_pos hp]
    exact .weaken fun _ hu => hu
  · rw [wiperEvents, if_neg hp, ← length_burst sg k false p] at hn ⊢
    rw [if_neg hp]
    exact (passes_preparing hs (drives_burst sg k false p) hn).append (passes_pos k)

/-! ## In initialisation -/

theorem Prepared.faulted {u : State} (h : Prepared s s.poweredPhase.starting m u) : u.faulted = false :=
  (congrArg Phase.faulted h.1.phase :).trans hs.faulted

theorem Underway.interrupted {t : State} (h : Underway s s.poweredPhase.starting t) (hn : m < t.trace.length) :
    Interrupted s m (onBusFault t) := by
  have hctrl : t.ctrl = .initializing := congrArg Phase.ctrl h.phase
  have hmode : t.waitMode = .timedDelay := congrArg Phase.mode h.phase
  have hpowered : t.powered = true := congrArg Phase.powered h.phase
  have hclosed : t.closed = s.closed := congrArg Phase.closed h.phase
  exact ⟨fun hle => absurd hn (Nat.not_lt.2 hle), fun _ => ⟨hctrl, hmode, hpowered⟩, h.contrast, h.backlight, h.col, h.row,
    hclosed.trans hs.closed⟩

theorem passes_sends {ms : List Micro} (hms : ∀ x ∈ ms, x.sends = true) :
    Passes (Interrupted s m) (Prepared s s.poweredPhase.starting m) (Prepared s s.poweredPhase.starting m) ms := by
  refine .keeps fun x hx u ⟨hway, hu⟩ => ?_
  have hsends := hms x hx
  have hdrives : x.drives = true → StepsTo (Interrupted s m) (Prepared s s.poweredPhase.starting m) (perform x u) := fun hd => by
    have hends := perform_drives_busied hd u
    rcases hr : perform x u with t | t | ⟨x', t⟩ <;> rw [hr] at hends <;> obtain ⟨hb, hlen⟩ := hends
    · exact (hway.busied hb).interrupted hs (by omega)
    · exact ⟨hway.busied hb, by omega⟩
    · exact Prepared.faulted (m := m) hs ⟨hway.busied hb, by omega⟩
  cases x with
  | signal _ _ | dir _ _ _ | dataOut _ | delay _ => exact hdrives rfl
  | wait =>
    have hmode : u.waitMode = .timedDelay := congrArg Phase.mode hway.phase
    rw [perform, waitReady_timed hmode]
    exact ⟨hway, hu⟩
  | record op v => exact ⟨⟨hway.phase, hway.contrast, hway.backlight, hway.col, hway.row⟩, hu⟩
  | _ => cases hsends

/-- From its first command on; the steps after the last make no transaction. -/
theorem passes_initProtocol (p : Params) (g' : Geometry) :
    Passes (Interrupted s m) (Prepared s s.poweredPhase m) (fun u => u.faulted = false) (initProtocol p g') := by
  have hcommand : ∀ op v t, Passes (Interrupted s m) (Prepared s s.poweredPhase.starting m)
      (Prepared s s.poweredPhase.starting m) (initCommand p.sig op v t) :=
    fun op v t => passes_sends hs (sends_initCommand p.sig op v t)
  have hend : Passes (Interrupted s m) (Prepared s s.poweredPhase.starting m) (fun u => u.faulted = false)
      [.cursor 0 0, .mode .busyPoll, .ctrl .ready] := fun _ _ hu hrest => hrest _ (Prepared.faulted hs hu :)
  exact (((((((passes_starting.append (hcommand _ _ _)).append (hcommand _ _ _)).append (hcommand _ _ _)).append
    (hcommand _ _ _)).append (hcommand _ _ _)).append (hcommand _ _ _)).append (hcommand _ _ _)).append hend

theorem passes_powerOnSteps :
    Passes (Interrupted s (setupEvents s)) (Preparing s 0) (fun u => u.faulted = false) (powerOnSteps s g) := by
  have hcount : 0 + 2 + 2 + wiperEvents s.contrast + 2 + wiperEvents s.backlight + 1 = setupEvents s := by
    rw [setupEvents]
    omega
  have hports : Passes (Interrupted s (setupEvents s)) (Preparing s 0) (Preparing s (0 + 2)) (lcdPortsOut s.cfg.sig) :=
    passes_preparing hs (ms := [_, _]) (by simp [Micro.drives]) (by rw [List.length_cons, List.length_singleton]; omega)
  have hcontrast := hports.append (passes_potPowerOn hs s.cfg.sig .contrast s.contrast (by omega))
  have hbacklight := hcontrast.append (passes_potPowerOn hs s.cfg.sig .backlight s.backlight (by omega))
  have hpwr := passes_preparing hs (ms := [.signal s.cfg.sig.pwr true]) (by simp [Micro.drives]) hcount.le
  rw [List.length_singleton, hcount] at hpwr
  exact ((hbacklight.append (hpwr.cons passes_powered)).append (passes_initProtocol hs s.cfg g)).append
    (passes_inner (ms := [.respond]) (by decide))

end

/-- Settles O29: before initialisation each event is counted and no mode is written; in it the modes are those of its start. -/
theorem faultInPowerOn : Obligations.FaultInPowerOn := by
  intro s t g hs h ht m
  rw [exec_of_admits hs rfl rfl] at h
  cases h
  exact (passes_powerOnSteps hs).onFault (fun _ hu => hu) ⟨⟨rfl, .inr rfl, .inr rfl, rfl, rfl⟩, rfl⟩ ht

end Sys2Proof.Machine
end

section
/-! OBLIGATION. The lines of a text and the words of a line (42_text_and_memory.md R211, R212): both are the library's split. -/

namespace Sys2Proof.Machine

/-! ## The library's split -/

/-- No piece holds the byte the list is split at. -/
theorem not_mem_of_mem_splitOn {a : Byte} {p piece : List Byte} (h : piece ∈ p.splitOn a) : a ∉ piece := by
  induction p generalizing piece with
  | nil =>
    rw [List.splitOn_nil, List.mem_singleton] at h
    exact h ▸ List.not_mem_nil
  | cons b bs ih =>
    rw [List.splitOn_cons_eq_if_modifyHead] at h
    split at h
    · rcases List.mem_cons.1 h with rfl | h
      · exact List.not_mem_nil
      · exact ih h
    · next hb =>
      obtain ⟨first, rest, hsplit⟩ := List.exists_cons_of_ne_nil (List.splitOn_ne_nil a bs)
      rw [hsplit, List.modifyHead_cons] at h
      rw [hsplit] at ih
      rcases List.mem_cons.1 h with rfl | h
      · have hne : a ≠ b := fun hab => hb (beq_iff_eq.2 hab.symm)
        exact List.not_mem_cons_of_ne_of_not_mem hne (ih List.mem_cons_self)
      · exact ih (List.mem_cons_of_mem _ h)

/-- There is one piece more than the list holds of the byte it is split at. -/
theorem length_splitOn (a : Byte) (p : List Byte) : (p.splitOn a).length = p.count a + 1 := by
  induction p with
  | nil => rfl
  | cons b bs ih =>
    rw [List.splitOn_cons_eq_if_modifyHead, List.count_cons]
    split <;> simp [ih]

/-! ## Lines and words -/

/-- With nothing gathered so far the pieces are as they are. -/
theorem modifyHead_nil_append (pieces : List (List Byte)) : pieces.modifyHead ([] ++ ·) = pieces :=
  congrFun List.modifyHead_id pieces

/-- The piece so far stands in front of the first piece. -/
theorem linesFrom_eq_splitOn (cur p : List Byte) : linesFrom cur p = (p.splitOn 0x0A).modifyHead (cur ++ ·) := by
  induction p generalizing cur with
  | nil => simp [linesFrom]
  | cons b bs ih =>
    rw [linesFrom, List.splitOn_cons_eq_if_modifyHead]
    by_cases hb : b = 0x0A#8
    · simpa [hb, ih] using modifyHead_nil_append _
    · simp [hb, ih, Function.comp_def]

theorem splitLines_eq_splitOn (p : List Byte) : splitLines p = p.splitOn 0x0A := by
  rw [splitLines, linesFrom_eq_splitOn]
  exact modifyHead_nil_append _

/-- The words are the pieces that are not empty, the run so far standing in front of the first. -/
theorem wordsFrom_eq_filter (cur line : List Byte) :
    wordsFrom cur line = ((line.splitOn 0x20).modifyHead (cur ++ ·)).filter (fun w => decide (w ≠ [])) := by
  induction line generalizing cur with
  | nil => by_cases hcur : cur = [] <;> simp [wordsFrom, hcur]
  | cons b bs ih =>
    rw [wordsFrom, List.splitOn_cons_eq_if_modifyHead]
    by_cases hb : b = 0x20#8
    · have hrest := (ih []).trans (congrArg _ (modifyHead_nil_append _))
      by_cases hcur : cur = [] <;> simp [hb, hcur, hrest]
    · simp [hb, ih, Function.comp_def]

theorem splitWords_eq_filter (line : List Byte) :
    splitWords line = (line.splitOn 0x20).filter (fun w => decide (w ≠ [])) := by
  rw [splitWords, wordsFrom_eq_filter, modifyHead_nil_append]

/-- A run of bytes other than 0x20 (R211). -/
def IsWord (w : List Byte) : Prop := w ≠ [] ∧ 0x20#8 ∉ w

theorem isWord_of_mem_splitWords {line w : List Byte} (h : w ∈ splitWords line) : IsWord w := by
  rw [splitWords_eq_filter, List.mem_filter] at h
  exact ⟨of_decide_eq_true h.2, not_mem_of_mem_splitOn h.1⟩

/-- A word cut leaves a word. -/
theorem IsWord.drop {w : List Byte} (hw : IsWord w) {n : Nat} (hn : n < w.length) : IsWord (w.drop n) :=
  ⟨List.ne_nil_of_length_pos (by rw [List.length_drop]; omega), fun h => hw.2 (List.mem_of_mem_drop h)⟩

/-- Words in a row, joined by single spaces (R211). -/
abbrev joinWords (ws : List (List Byte)) : List Byte := [0x20#8].intercalate ws

section
variable {ws : List (List Byte)} (hws : ∀ x ∈ ws, IsWord x)
include hws

theorem splitOn_joinWords (hne : ws ≠ []) : (joinWords ws).splitOn 0x20 = ws :=
  List.splitOn_intercalate _ (fun x hx => (hws x hx).2) hne

/-- Joining words and splitting them again gives them back. -/
theorem splitWords_joinWords : splitWords (joinWords ws) = ws := by
  by_cases hne : ws = []
  · subst hne
    rfl
  · rw [splitWords_eq_filter, splitOn_joinWords hws hne]
    exact List.filter_eq_self.2 fun x hx => decide_eq_true (hws x hx).1

end

/-- Words joined: the first may be cut anywhere. -/
theorem joinWords_append_cons (a b : List Byte) (ws : List (List Byte)) :
    joinWords ((a ++ b) :: ws) = a ++ joinWords (b :: ws) := by
  cases ws with
  | nil => simp
  | cons w ws => simp [List.intercalate_cons_cons]

/-- Two words joined by a space, taken as one, join as two. -/
theorem joinWords_space_cons (a b : List Byte) (ws : List (List Byte)) :
    joinWords ((a ++ 0x20#8 :: b) :: ws) = joinWords (a :: b :: ws) := by
  have hspace : joinWords ((0x20#8 :: b) :: ws) = 0x20#8 :: joinWords (b :: ws) := joinWords_append_cons [0x20#8] b ws
  have hjoin : joinWords (a :: b :: ws) = a ++ [0x20#8] ++ joinWords (b :: ws) := List.intercalate_cons_cons
  rw [joinWords_append_cons, hspace, hjoin, List.append_assoc, List.singleton_append]

theorem joinWords_ne_nil {w : List Byte} (hw : w ≠ []) (ws : List (List Byte)) : joinWords (w :: ws) ≠ [] := by
  rw [← List.append_nil w, joinWords_append_cons]
  exact List.append_ne_nil_of_left_ne_nil hw _

/-- Settles O41: the lines are the library's split, which its join undoes. -/
theorem splitLinesAtBreaks : Obligations.SplitLines := by
  intro p
  rw [splitLines_eq_splitOn]
  exact ⟨rfl, List.intercalate_splitOn _, fun _ => not_mem_of_mem_splitOn, length_splitOn _ p⟩

end Sys2Proof.Machine
end

section
/-! OBLIGATION. What `wrap` makes of the words of a line (42_text_and_memory.md R211): the three cases of the first word. -/

namespace Sys2Proof.Machine

/-! ## The loops from any spans -/

/-- The spans when no word is left. -/
def WrapState.close (st : WrapState) : List (List Byte) := if st.cur = [] then st.spans else st.spans ++ [st.cur]

/-- The state with more spans in front. -/
def WrapState.behind (spans : List (List Byte)) (st : WrapState) : WrapState := { st with spans := spans ++ st.spans }

theorem WrapState.close_behind (spans : List (List Byte)) (st : WrapState) :
    (st.behind spans).close = spans ++ st.close := by
  by_cases h : st.cur = [] <;> simp [WrapState.close, WrapState.behind, h]

/-- The loops only add to the spans. -/
theorem placeWord_behind (full fuel : Nat) (spans : List (List Byte)) (w : List Byte) (st : WrapState) :
    placeWord full fuel w (st.behind spans) = (placeWord full fuel w st).behind spans := by
  induction fuel generalizing w st with
  | zero => rfl
  | succ fuel ih =>
    have hpush : ∀ v sp, placeWord full fuel v ⟨spans ++ st.spans ++ [sp], [], full⟩ =
        (placeWord full fuel v ⟨st.spans ++ [sp], [], full⟩).behind spans := fun v sp => by
      rw [← ih, WrapState.behind, List.append_assoc]
    rw [placeWord_succ, placeWord_succ]
    simp only [WrapState.behind] at hpush ⊢
    simp only [hpush]
    split_ifs <;> rfl

theorem placeWords_behind (full : Nat) (spans ws : List (List Byte)) (st : WrapState) :
    placeWords full ws (st.behind spans) = (placeWords full ws st).behind spans := by
  induction ws generalizing st with
  | nil => rfl
  | cons w ws ih => rw [placeWords, placeWords, placeWord_behind, ih]

/-- On a row begun with nothing, any number of rounds that suffices does the same. -/
theorem placeWord_enough {full : Nat} (hfull : 1 ≤ full) {n : Nat} {w : List Byte} (h : w.length + 1 ≤ n) :
    placeWord full n w ⟨[], [], full⟩ = placeWord full (w.length + 2) w ⟨[], [], full⟩ := by
  have henough : ∀ n, w.length + 1 ≤ n →
      placeWord full n w ⟨[], [], full⟩ = placeWord full (w.length + 1) w ⟨[], [], full⟩ :=
    Nat.le_induction rfl fun n hn ih => (placeWord_empty_fuel hfull n w _ rfl hfull hn).trans ih
  rw [henough n h, henough (w.length + 2) (by omega)]

/-! ## The three cases -/

/-- The spans of the words `ws`, the first with `room` bytes left of a row of `full`. -/
def wrapWords (ws : List (List Byte)) (room full : Nat) : List (List Byte) := (placeWords full ws ⟨[], [], room⟩).close

/-- Only the words of a line count. -/
theorem wrap_eq_wrapWords (line : List Byte) (room full : Nat) : wrap line room full = wrapWords (splitWords line) room full :=
  rfl

@[simp] theorem wrapWords_nil (room full : Nat) : wrapWords [] room full = [] := rfl

/-- Joined words, as a line, are wrapped as the words they are. -/
theorem wrap_joinWords {ws : List (List Byte)} (hws : ∀ x ∈ ws, IsWord x) (room full : Nat) :
    wrap (joinWords ws) room full = wrapWords ws room full := by
  rw [wrap_eq_wrapWords, splitWords_joinWords hws]

section
variable {room full : Nat} {w : List Byte} {ws : List (List Byte)}

/-- A span ended, the word and the words after it go on with a whole row. -/
theorem close_placeWords_push (hfull : 1 ≤ full) {n : Nat} (h : w.length + 1 ≤ n) (sp : List Byte) :
    (placeWords full ws (placeWord full n w ⟨[sp], [], full⟩)).close = sp :: wrapWords (w :: ws) full full := by
  have hbehind : (⟨[sp], [], full⟩ : WrapState) = WrapState.behind [sp] ⟨[], [], full⟩ := rfl
  rw [hbehind, placeWord_behind, placeWord_enough hfull h, placeWords_behind, WrapState.close_behind]
  rfl

/-- A first word that fits the row but not the room: an empty span. -/
theorem wrapWords_skip (hfull : 1 ≤ full) (hroom : room < w.length) (hfits : w.length ≤ full) :
    wrapWords (w :: ws) room full = [] :: wrapWords (w :: ws) full full := by
  rw [wrapWords, placeWords, placeWord_succ, if_pos rfl, if_neg (Nat.not_le.2 hroom), if_neg (Nat.not_lt.2 hfits)]
  exact close_placeWords_push hfull (Nat.le_refl _) []

/-- A first word wider than the row: cut at the room. -/
theorem wrapWords_cut (hroom : 1 ≤ room) (hle : room ≤ full) (hlong : full < w.length) :
    wrapWords (w :: ws) room full = w.take room :: wrapWords (w.drop room :: ws) full full := by
  rw [wrapWords, placeWords, placeWord_succ, if_pos rfl, if_neg (by dsimp only; omega), if_pos hlong]
  exact close_placeWords_push (by omega) (by rw [List.length_drop]; omega) _

/-- On a row begun, the longest run of words that fits follows, joined by single spaces. -/
theorem close_placeWords_fill (hfull : 1 ≤ full) (ws : List (List Byte)) {cur : List Byte} (hcur : cur ≠ [])
    (hfits : cur.length ≤ room) :
    ∃ n, n ≤ ws.length ∧ (joinWords (cur :: ws.take n)).length ≤ room ∧
      (n < ws.length → room < (joinWords (cur :: ws.take (n + 1))).length) ∧
      (placeWords full ws ⟨[], cur, room⟩).close = joinWords (cur :: ws.take n) :: wrapWords (ws.drop n) full full := by
  induction ws generalizing cur with
  | nil =>
    refine ⟨0, Nat.le_refl 0, by simpa using hfits, fun h => absurd h (Nat.lt_irrefl 0), ?_⟩
    simp [placeWords, WrapState.close, hcur]
  | cons w ws ih =>
    rw [placeWords, placeWord_succ, if_neg hcur]
    dsimp only
    split
    · next hjoins =>
      obtain ⟨n, hn, hwidth, hlongest, hspans⟩ := ih (cur := cur ++ 0x20#8 :: w) (by simp) (by simp; omega)
      rw [joinWords_space_cons] at hwidth hspans
      refine ⟨n + 1, Nat.succ_le_succ hn, hwidth, fun h => ?_, hspans⟩
      exact joinWords_space_cons .. ▸ hlongest (Nat.lt_of_succ_lt_succ h)
    · next hjoins =>
      refine ⟨0, Nat.zero_le _, by simpa using hfits, fun _ => ?_, ?_⟩
      · simpa [List.intercalate_cons_cons, Nat.add_assoc, Nat.add_comm 1] using hjoins
      · rw [List.nil_append, close_placeWords_push hfull (Nat.le_refl _)]
        simp

/-- A first word that fits the room: the span is the longest run of words that does. -/
theorem wrapWords_fill (hfull : 1 ≤ full) (hw : w ≠ []) (hfits : w.length ≤ room) :
    ∃ n, n ≤ ws.length ∧ (joinWords (w :: ws.take n)).length ≤ room ∧
      (n < ws.length → room < (joinWords (w :: ws.take (n + 1))).length) ∧
      wrapWords (w :: ws) room full = joinWords (w :: ws.take n) :: wrapWords (ws.drop n) full full := by
  rw [wrapWords, placeWords, placeWord_succ, if_pos rfl, if_pos hfits]
  exact close_placeWords_fill hfull ws hw hfits

end

/-- Settles O59: the three cases of a first word, for words that come from a line or from a cut. -/
theorem wrapGreedy : Obligations.WrapGreedy := by
  refine ⟨fun line room full => ⟨?_, fun h => ?_⟩, ?_⟩
  · rw [wrap_joinWords fun _ => isWord_of_mem_splitWords]
    rfl
  · rw [wrap_eq_wrapWords, h, wrapWords_nil]
  · intro w ws room full hroom hle hws joined
    have hfull : 1 ≤ full := Nat.le_trans hroom hle
    obtain ⟨hw, hrest⟩ := List.forall_mem_cons.1 hws
    refine ⟨fun hover hfits => ?_, fun hlong => ?_, fun hfits => ?_⟩
    · rw [wrap_joinWords hws, wrap_joinWords hws, wrapWords_skip hfull hover hfits]
    · have hdrop : IsWord (w.drop room) := IsWord.drop hw (Nat.lt_of_le_of_lt hle hlong)
      rw [wrap_joinWords hws, wrap_joinWords (List.forall_mem_cons.2 ⟨hdrop, hrest⟩), wrapWords_cut hroom hle hlong]
    · obtain ⟨n, hn, hwidth, hlongest, hspans⟩ := wrapWords_fill (ws := ws) hfull hw.1 hfits
      refine ⟨n, hn, hwidth, hlongest, ?_⟩
      rw [wrap_joinWords hws, wrap_joinWords fun x hx => hrest x (List.mem_of_mem_drop hx), hspans]

end Sys2Proof.Machine
end

section
/-! OBLIGATION. The spans of a line (42_text_and_memory.md R211), by induction over how `wrap` comes to them. -/

namespace Sys2Proof.Machine

/-- How the words of a line come to its spans, the first with `room` bytes left of a row of `full`: a row skipped, a word cut, a
row filled with whole words. -/
inductive Wraps (full : Nat) : Nat → List (List Byte) → List (List Byte) → Prop
  | done {room} : Wraps full room [] []
  | skip {room w ws spans} : room < full → Wraps full full (w :: ws) spans → Wraps full room (w :: ws) ([] :: spans)
  | cut {room w ws spans} : 1 ≤ room → full < w.length → IsWord w → Wraps full full (w.drop room :: ws) spans →
      Wraps full room (w :: ws) (w.take room :: spans)
  | fill {room w run ws spans} : (∀ x ∈ w :: run, IsWord x) → Wraps full full ws spans →
      Wraps full room (w :: run ++ ws) (joinWords (w :: run) :: spans)

/-- Each round takes a word, takes a byte of it, or begins a whole row. -/
theorem wraps_wrapWords {room full : Nat} (hroom : 1 ≤ room) (hle : room ≤ full) :
    ∀ ws : List (List Byte), (∀ x ∈ ws, IsWord x) → Wraps full room ws (wrapWords ws room full)
  | [], _ => .done
  | w :: ws, hws => by
    have hfull : 1 ≤ full := Nat.le_trans hroom hle
    obtain ⟨hw, hrest⟩ := List.forall_mem_cons.1 hws
    by_cases hfits : w.length ≤ room
    · obtain ⟨n, -, -, -, hspans⟩ := wrapWords_fill (ws := ws) hfull hw.1 hfits
      have htaken : ∀ x ∈ w :: ws.take n, IsWord x :=
        List.forall_mem_cons.2 ⟨hw, fun x hx => hrest x (List.mem_of_mem_take hx)⟩
      have hnext := wraps_wrapWords hfull (Nat.le_refl full) (ws.drop n) fun x hx => hrest x (List.mem_of_mem_drop hx)
      simpa [hspans] using Wraps.fill (room := room) htaken hnext
    · by_cases hlong : full < w.length
      · rw [wrapWords_cut hroom hle hlong]
        have hdrop : IsWord (w.drop room) := hw.drop (by omega)
        exact .cut hroom hlong hw (wraps_wrapWords hfull (Nat.le_refl full) _ (List.forall_mem_cons.2 ⟨hdrop, hrest⟩))
      · rw [wrapWords_skip hfull (by omega) (by omega)]
        exact .skip (by omega) (wraps_wrapWords hfull (Nat.le_refl full) _ hws)
termination_by ws => ws.flatten.length + ws.length + (full - room)
decreasing_by
  · have hdropped : (ws.drop n).flatten.length ≤ ws.flatten.length := (List.drop_sublist n ws).flatten.length_le
    simp only [List.flatten_cons, List.length_append, List.length_cons, List.length_drop]
    omega
  · simp only [List.flatten_cons, List.length_append, List.length_cons, List.length_drop]
    omega
  · omega

/-- The spans of a line come from its words. -/
theorem wraps_wrap {room full : Nat} (hroom : 1 ≤ room) (hle : room ≤ full) (line : List Byte) :
    Wraps full room (splitWords line) (wrap line room full) :=
  wraps_wrapWords hroom hle _ fun _ => isWord_of_mem_splitWords

section
variable {room full : Nat} {ws spans : List (List Byte)}

/-- No span but the first is empty, and that one only if the row is begun. -/
theorem Wraps.nonempty (h : Wraps full room ws spans) : ([] ∈ spans → room < full) ∧ [] ∉ spans.tail := by
  have hfresh : ∀ {spans : List (List Byte)}, ([] ∈ spans → full < full) → [] ∉ spans :=
    fun h hmem => Nat.lt_irrefl full (h hmem)
  have hsolid : ∀ {room sp} {spans : List (List Byte)}, sp ≠ [] → ([] ∈ spans → full < full) →
      ([] ∈ sp :: spans → room < full) ∧ [] ∉ spans :=
    fun hne h => ⟨fun hmem => absurd hmem (List.not_mem_cons_of_ne_of_not_mem hne.symm (hfresh h)), hfresh h⟩
  induction h with
  | done => exact ⟨nofun, nofun⟩
  | skip hroom _ ih => exact ⟨fun _ => hroom, hfresh ih.1⟩
  | cut hroom _ hw _ ih => exact hsolid (mt List.take_eq_nil_iff.1 (not_or.2 ⟨Nat.ne_of_gt hroom, hw.1⟩)) ih.1
  | fill hwords _ ih => exact hsolid (joinWords_ne_nil (hwords _ List.mem_cons_self).1 _) ih.1

/-- A part of a word splits into itself. -/
theorem splitOn_take {w : List Byte} (hw : IsWord w) (n : Nat) : (w.take n).splitOn 0x20 = [w.take n] :=
  List.splitOn_eq_singleton fun h => hw.2 (List.mem_of_mem_take h)

/-- The words of a span are joined by exactly one space. -/
theorem Wraps.single_spaces (h : Wraps full room ws spans) : ∀ sp ∈ spans, sp ≠ [] → [] ∉ sp.splitOn 0x20 := by
  induction h with
  | done => nofun
  | skip _ _ ih => exact List.forall_mem_cons.2 ⟨fun h => absurd rfl h, ih⟩
  | cut _ _ hw _ ih =>
    refine List.forall_mem_cons.2 ⟨fun hne => ?_, ih⟩
    rw [splitOn_take hw]
    exact fun h => hne (List.mem_singleton.1 h).symm
  | fill hwords _ ih =>
    refine List.forall_mem_cons.2 ⟨fun _ => ?_, ih⟩
    rw [splitOn_joinWords hwords (List.cons_ne_nil _ _)]
    exact fun h => (hwords [] h).1 rfl

/-- A word no wider than the row is in one span whole. -/
theorem Wraps.whole (h : Wraps full room ws spans) :
    ∀ w ∈ ws, w.length ≤ full → ∃ sp ∈ spans, w ∈ sp.splitOn 0x20 := by
  induction h with
  | done => nofun
  | skip _ _ ih => exact fun x hx hfits => (ih x hx hfits).imp fun _ => .imp_left (List.mem_cons_of_mem _)
  | cut _ hlong _ _ ih =>
    intro x hx hfits
    have hx : x ∈ _ := (List.mem_cons.1 hx).resolve_left fun h => Nat.not_le.2 hlong (h ▸ hfits)
    exact (ih x (List.mem_cons_of_mem _ hx) hfits).imp fun _ => .imp_left (List.mem_cons_of_mem _)
  | fill hwords _ ih =>
    intro x hx hfits
    rcases List.mem_append.1 hx with hx | hx
    · exact ⟨_, List.mem_cons_self, (splitOn_joinWords hwords (List.cons_ne_nil _ _)).symm ▸ hx⟩
    · exact (ih x hx hfits).imp fun _ => .imp_left (List.mem_cons_of_mem _)

end

/-- Settles O42: the widths by what the loops keep, the bytes as in O43, the words by how `wrap` comes to the spans. -/
theorem wrapSpans : Obligations.WrapSpans := by
  intro line room full hroom hle
  obtain ⟨hfirst, hwidth⟩ := wrap_widths hroom hle line
  have hwraps := wraps_wrap hroom hle line
  refine ⟨splitWords_eq_filter line, hfirst, hwidth, ink_wrap line room full, hwraps.single_spaces, hwraps.whole, fun h => ?_⟩
  rw [wrap_eq_wrapWords, h, wrapWords_nil]

end Sys2Proof.Machine
end

section
/-! OBLIGATION. The rows of a text (42_text_and_memory.md R210, R213): a line's spans on consecutive rows, and each line from
column 0 of the row after the one the line before ended on. -/

namespace Sys2Proof.Machine

section
variable {g : Geometry}

/-! ## One line -/

/-- A layout with transfers in front. -/
def Layout.behind (ts : List Transfer) (l : Layout) : Layout := { l with transfers := ts ++ l.transfers }

/-- The last span of a line: the cursor behind it, or on the next row if it fills its own. -/
theorem layoutSpans_singleton (sp : List Byte) (c r : Nat) :
    layoutSpans g true [sp] c r =
      if g.cols ≤ c + sp.length then ⟨[.block sp, .address 0 (nextRow g r)], 0, nextRow g r⟩
      else ⟨[.block sp], c + sp.length, r⟩ := by
  by_cases hfull : g.cols ≤ c + sp.length <;> simp [layoutSpans, hfull]

/-- A span that is not the last: the next begins the row below, whether this one fills its row or not. -/
theorem layoutSpans_cons_cons {sp : List Byte} {c : Nat} (hc : c + sp.length ≠ 0) (sp' : List Byte) (rest : List (List Byte))
    (r : Nat) :
    layoutSpans g true (sp :: sp' :: rest) c r =
      (layoutSpans g true (sp' :: rest) 0 (nextRow g r)).behind [.block sp, .address 0 (nextRow g r)] := by
  by_cases hfull : g.cols ≤ c + sp.length
  · simp [layoutSpans, Layout.behind, hfull]
  · have hbegun : ¬(c = 0 ∧ sp = []) := fun h => hc (by simp [h])
    simp [layoutSpans, Layout.behind, hfull, hbegun]

/-- A line of one span. -/
theorem lineLayout_singleton (sp : List Byte) (c : Nat) {r : Nat} (hr : r < g.rows) :
    lineLayout g c r [sp] = (layoutSpans g true [sp] c r).behind [.address c r] := by
  rw [layoutSpans_singleton]
  by_cases hfull : g.cols ≤ c + sp.length <;>
    simp [lineLayout, fillsRow, lastStart, Layout.behind, nextRow, hfull, Nat.mod_eq_of_lt hr]

/-- Span `k` of a line that begins on row `r`, behind its address if it is not the first (R210). -/
def spanTransfers (g : Geometry) (r : Nat) (x : List Byte × Nat) : List Transfer :=
  (if x.2 = 0 then [] else [.address 0 ((r + x.2) % g.rows)]) ++ [.block x.1]

theorem lineLayout_transfers (c r : Nat) (spans : List (List Byte)) :
    (lineLayout g c r spans).transfers = .address c r :: (spans.zipIdx.flatMap (spanTransfers g r) ++
      if fillsRow g c spans then [.address 0 ((r + spans.length) % g.rows)] else []) := rfl

/-- Row `k` counted from the next row is row `k + 1`. -/
theorem nextRow_add_mod (r k : Nat) : (nextRow g r + k) % g.rows = (r + (k + 1)) % g.rows := by
  rw [nextRow, Nat.mod_add_mod, Nat.add_assoc, Nat.add_comm 1]

/-- The spans from the third on, seen from the next row, are those from the second on. -/
theorem spanTransfers_nextRow (spans : List (List Byte)) (r k : Nat) :
    (spans.zipIdx (k + 1 + 1)).flatMap (spanTransfers g r) = (spans.zipIdx (k + 1)).flatMap (spanTransfers g (nextRow g r)) := by
  induction spans generalizing k with
  | nil => rfl
  | cons sp rest ih =>
    rw [List.zipIdx_cons, List.zipIdx_cons, List.flatMap_cons, List.flatMap_cons, ih, spanTransfers, spanTransfers,
      nextRow_add_mod]
    rfl

/-- The spans after the first are those of a line from column 0 of the next row. -/
theorem lineLayout_cons_cons (sp sp' : List Byte) (rest : List (List Byte)) (c r : Nat) :
    lineLayout g c r (sp :: sp' :: rest) =
      (lineLayout g 0 (nextRow g r) (sp' :: rest)).behind [.address c r, .block sp] := by
  have hstart : lastStart c (rest.length + 1 + 1) = lastStart 0 (rest.length + 1) := by simp [lastStart]
  have hlast : (sp :: sp' :: rest).getLast? = (sp' :: rest).getLast? := List.getLast?_cons_cons
  have hfills : fillsRow g c (sp :: sp' :: rest) = fillsRow g 0 (sp' :: rest) := by
    simp only [fillsRow, hlast, List.length_cons, hstart]
  have hspans : (sp :: sp' :: rest).zipIdx.flatMap (spanTransfers g r) =
      .block sp :: .address 0 (nextRow g r) :: (sp' :: rest).zipIdx.flatMap (spanTransfers g (nextRow g r)) := by
    have hrest := spanTransfers_nextRow (g := g) rest r 0
    simp only [Nat.zero_add] at hrest
    simp only [List.zipIdx_cons, List.flatMap_cons, Nat.zero_add, hrest]
    rfl
  have htransfers : (lineLayout g c r (sp :: sp' :: rest)).transfers =
      [.address c r, .block sp] ++ (lineLayout g 0 (nextRow g r) (sp' :: rest)).transfers := by
    rw [lineLayout_transfers, lineLayout_transfers, hspans, hfills, nextRow_add_mod]
    rfl
  rw [lineLayout, lineLayout, Layout.behind, Layout.mk.injEq]
  refine ⟨htransfers, ?_, ?_⟩ <;> simp [hfills, hlast, hstart, nextRow_add_mod]

/-- A line's transfers and cursor from its spans alone, if none but the last ends where its row begins. -/
theorem lineLayout_eq (spans : List (List Byte)) {c r : Nat} (hr : r < g.rows)
    (hfirst : ∀ sp ∈ spans.head?, c + sp.length ≠ 0) (hlater : [] ∉ spans.tail) :
    lineLayout g c r spans = (layoutSpans g true spans c r).behind [.address c r] := by
  induction spans generalizing c r with
  | nil => rfl
  | cons sp rest ih =>
    cases rest with
    | nil => exact lineLayout_singleton sp c hr
    | cons sp' rest =>
      obtain ⟨hne, hrest⟩ := not_or.1 (List.mem_cons.not.1 hlater)
      rw [lineLayout_cons_cons, layoutSpans_cons_cons (hfirst sp rfl),
        ih (nextRow_lt (by omega) r) (by simpa using Ne.symm hne) hrest]
      rfl

/-- So for the spans of `wrap`: an empty one is the first, on a row begun. -/
theorem lineLayout_wrap (line : List Byte) {c r : Nat} (hc : c < g.cols) (hr : r < g.rows) :
    lineLayout g c r (wrap line (g.cols - c) g.cols) =
      (layoutSpans g true (wrap line (g.cols - c) g.cols) c r).behind [.address c r] := by
  obtain ⟨hempty, hlater⟩ := (wraps_wrap (Nat.sub_pos_of_lt hc) (Nat.sub_le g.cols c) line).nonempty
  refine lineLayout_eq _ hr (fun sp hsp => ?_) hlater
  by_cases hnil : sp = []
  · have := hempty (hnil ▸ List.mem_of_mem_head? hsp)
    omega
  · have := List.length_pos_of_ne_nil hnil
    omega

/-! ## The lines -/

/-- A text with no break is one line. -/
theorem splitLines_of_not_mem {line : List Byte} (h : 0x0A#8 ∉ line) : splitLines line = [line] := by
  rw [splitLines_eq_splitOn]
  exact List.splitOn_eq_singleton h

/-- A break ends the line before it. -/
theorem splitLines_append_break {line : List Byte} (h : 0x0A#8 ∉ line) (more : List Byte) :
    splitLines (line ++ 0x0A#8 :: more) = line :: splitLines more := by
  rw [splitLines_eq_splitOn, splitLines_eq_splitOn]
  exact List.splitOn_append_cons_self_of_not_mem h more

/-- The first line, then the rest from where it ends. -/
theorem layoutLines_cons (line : List Byte) (rest : List (List Byte)) {c r : Nat} (hc : c < g.cols) (hr : r < g.rows) :
    layoutLines g true (line :: rest) c r =
      let a := lineLayout g c r (wrap line (g.cols - c) g.cols)
      (layoutLines g false rest a.col a.row).behind a.transfers := by
  rw [lineLayout_wrap line hc hr]
  simp [layoutLines, Layout.behind]

/-- Lines after a break are laid out as a text of their own from column 0 of the next row (R210). -/
theorem layoutLines_after_break (more : List Byte) (c r : Nat) :
    layoutLines g false (splitLines more) c r = layoutText g more 0 (nextRow g r) := by
  obtain ⟨line, rest, hlines⟩ : ∃ line rest, splitLines more = line :: rest :=
    List.exists_cons_of_ne_nil (splitLines_eq_splitOn more ▸ List.splitOn_ne_nil _ _)
  rw [layoutText, hlines]
  rfl

end

/-- Settles O60: one line by its spans, then what follows the break. -/
theorem printRows : Obligations.PrintRows := by
  intro g line c r hc hr hline
  refine ⟨?_, fun more => ?_⟩
  · rw [layoutText, splitLines_of_not_mem hline, layoutLines_cons line [] hc hr]
    simp [layoutLines, Layout.behind]
  · rw [layoutText, splitLines_append_break hline, layoutLines_cons line _ hc hr]
    simp only [layoutLines_after_break]
    rfl

/-- Settles O49: the geometry is that of (16,2), and the layout is computed. -/
theorem printExample : Obligations.PrintExample := by
  intro g hg
  cases hg
  decide

end Sys2Proof.Machine
end

section
/-! OBLIGATION. The potentiometer requests (43_potentiometer.md R248 to R251) complete. -/

namespace Sys2Proof.Machine

/-- A select is not UD. -/
theorem ud_and_selectMask {sg : SigMap} (h : sg.wf = true) (k : Pot) : sg.ud &&& selectMask sg k = 0x00#8 := by
  have hd := SigMap.wf_disjoint h
  cases k with
  | contrast => exact and_zero_comm hd.ccs_ud
  | backlight => exact and_zero_comm hd.bcs_ud

/-- A pulse leaves the select high, whatever it was before. -/
theorem clear_set (v m : Byte) : v &&& ~~~m ||| m = v ||| m := by
  ext i hi
  simp only [BitVec.getElem_and, BitVec.getElem_or, BitVec.getElem_not]
  cases v[i] <;> cases m[i] <;> rfl

section
variable {s : State} {g : Geometry} (hs : Ready s g) {i : Instr} (hi : needsReady i = true) (k : Pot)
include hs hi

/-- An instruction that sets a wiper (R244, R245). -/
theorem exec_setWiper (hsig : s.cfg.sig.wf = true) {target : Nat}
    (hp : program s i g = .ok (setWiper s.cfg.sig k (s.posOf k) target ++ [.respond]))
    (hf : NoFault s (wiperTrace s.cfg.sig (selectMask s.cfg.sig k) s.shadow (s.posOf k) (min target 63))) :
    exec i s = .next ((s.setPosOf k (min target 63)).completed
      (wiperShadow s.cfg.sig (selectMask s.cfg.sig k) s.shadow (s.posOf k) (min target 63)) s.dirControl s.dirData
      (wiperTrace s.cfg.sig (selectMask s.cfg.sig k) s.shadow (s.posOf k) (min target 63)) 0 []) := by
  have hpos : s.posOf k = s.begin.posOf k := by cases k <;> rfl
  rw [exec_of_ready hs hi hp, hpos,
    run_setWiper (s := s.begin) (sg := s.cfg.sig) (tr := []) rfl k target (ud_and_selectMask hsig k) (hpos ▸ hf), run_respond]
  cases k <;> rfl

/-- An instruction that makes a single pulse (R241) and then tracks the position `p`. -/
theorem exec_stepPulse (up : Bool) (p : Nat) {w cs : Byte}
    (hp : program s i g = .ok (stepPulse s.cfg.sig k up ++ [.pos k p] ++ [.respond]))
    (hw : w = maskBits s.cfg.sig.ud up s.shadow) (hcs : cs = selectMask s.cfg.sig k)
    (hf : NoFault s [.wc w, .wc (w &&& ~~~cs), .wc (w ||| cs)]) :
    exec i s = .next ((s.setPosOf k p).completed (w ||| cs) s.dirControl s.dirData
      [.wc w, .wc (w &&& ~~~cs), .wc (w ||| cs)] 0 []) := by
  subst hw hcs
  have hpulse := run_drives (s := s.begin) (p := ⟨s.shadow, s.dirControl, s.dirData⟩) (tr := []) (n := 0)
    (stepPulse s.cfg.sig k up) ([.pos k p] ++ [.respond]) rfl
  simp only [stepPulse, Pins.events, Pins.after, Pins.event_signal, Pins.step_signal, maskBits_true, maskBits_false, clear_set,
    List.cons_append, List.nil_append] at hpulse
  rw [exec_of_ready hs hi hp, List.append_assoc]
  exact congrArg Host.Outcome.next ((hpulse hf).trans (by cases k <;> rfl))

end

/-- Settles O52: each is one `set` of its own wiper, from the tracked position. -/
theorem setWiperResult : Obligations.SetWiperResult := fun _ _ _ hs hsig =>
  ⟨exec_setWiper hs rfl .contrast hsig rfl, exec_setWiper hs rfl .backlight hsig rfl⟩

/-- Settles O53: each is one pulse on its own select, up or down, and the position tracked after it. -/
theorem stepWiperResult : Obligations.StepWiperResult := fun _ _ hs =>
  ⟨exec_stepPulse hs rfl .contrast true _ rfl rfl rfl, exec_stepPulse hs rfl .backlight true _ rfl rfl rfl,
    exec_stepPulse hs rfl .contrast false _ rfl rfl rfl, exec_stepPulse hs rfl .backlight false _ rfl rfl rfl⟩

end Sys2Proof.Machine
end

section
/-! SUPPORT. The control bytes a request writes, failed writes included: a step that drives no signal of a mask writes only control
bytes that agree on the mask with the one before it. -/

namespace Sys2Proof.Machine

/-- Since `s` the wiring and the signals of `k` are unchanged, and every control byte written or attempted meets `A`. -/
structure Spares (A : Byte → Prop) (k : Byte) (s u : State) : Prop where
  sig : u.cfg.sig = s.cfg.sig
  level : u.shadow &&& k = s.shadow &&& k
  bytes : ∃ new, u.trace = s.trace ++ new ∧ ∀ e ∈ new, ∀ w, e.controlByte = some w → A w

section
variable {A : Byte → Prop} {k : Byte} {s t u : State}

/-- A change that appends no event and leaves the control byte alone. -/
theorem Spares.of_silent (hsig : u.cfg.sig = s.cfg.sig) (hsh : u.shadow = s.shadow) (htr : u.trace = s.trace) :
    Spares A k s u :=
  ⟨hsig, by rw [hsh], [], by rw [htr, List.append_nil], nofun⟩

theorem Spares.refl : Spares A k s s := .of_silent rfl rfl rfl

theorem Spares.trans (h : Spares A k s t) (h' : Spares A k t u) : Spares A k s u := by
  obtain ⟨hsig, hlevel, a, htr, ha⟩ := h
  obtain ⟨hsig', hlevel', b, htr', hb⟩ := h'
  exact ⟨hsig'.trans hsig, hlevel'.trans hlevel, a ++ b, by rw [htr', htr, List.append_assoc],
    List.forall_mem_append.2 ⟨ha, hb⟩⟩

/-- The bytes alone. -/
theorem Spares.forget (h : Spares A k s u) : Spares A 0x00#8 s u := { h with level := by rw [BitVec.and_zero, BitVec.and_zero] }

/-- An event that is no control byte. -/
theorem Spares.aside (h : Spares A k s u) {e : Event} (he : e.controlByte = none) {dc dd : Byte} {out ins : List Byte} {n : Nat}
    {f : Option Nat} :
    Spares A k s { u with dirControl := dc, dirData := dd, trace := u.trace ++ [e], out := out, inputs := ins, reads := n,
                          faultIn := f } :=
  h.trans ⟨rfl, rfl, [e], rfl, List.forall_mem_singleton.2 fun w hw => by rw [he] at hw; cases hw⟩

/-- A control byte written or attempted. -/
theorem Spares.control (h : Spares A k s u) {e : Event} {v : Byte} (he : e.controlByte = some v) (hA : A v)
    (hv : v &&& k = u.shadow &&& k) (f : Option Nat) : Spares A k s (((u.setShadow v).setFaultIn f).emit e) :=
  h.trans ⟨rfl, hv, [e], rfl, List.forall_mem_singleton.2 fun w hw => by rw [he] at hw; cases hw; exact hA⟩

theorem Spares.setDir (h : Spares A k s u) (p : Port) (m : Byte) (input : Bool) :
    Throughout id (Spares A k s) (setDir p m input u) := by
  cases p with
  | control => exact transact_throughout (fun _ => h.aside rfl) (h.aside rfl)
  | data => exact transact_throughout (fun _ => h.aside rfl) (h.aside rfl)

theorem Spares.portIn (h : Spares A k s u) : Throughout Prod.snd (Spares A k s) (portIn u) :=
  portIn_throughout (fun _ => h.aside rfl) (h.aside rfl)

/-! ## Steps that drive no signal of the mask -/

section
variable (hA : ∀ w, w &&& k = s.shadow &&& k → A w)
include hA

theorem Spares.setSignal (h : Spares A k s u) {m : Byte} (hm : m &&& k = 0x00#8) (on : Bool) :
    Throughout id (Spares A k s) (setSignal m on u) := by
  have hlevel : maskBits m on u.shadow &&& k = u.shadow &&& k := maskBits_and_of_disjoint on _ hm
  have hbyte : A (maskBits m on u.shadow) := hA _ (hlevel.trans h.level)
  exact transact_throughout (fun f => h.control rfl hbyte hlevel f) (h.control rfl hbyte hlevel _)

theorem spares_pollKeeps (hk : lineMask s.cfg.sig &&& k = 0x00#8) : PollKeeps (Spares A k s) where
  line on h hm := by
    obtain ⟨hrs, hrw, hen⟩ := lineMask_and_eq_zero.1 hk
    rw [h.sig, List.mem_cons, List.mem_cons, List.mem_singleton] at hm
    rcases hm with rfl | rfl | rfl
    · exact h.setSignal hA hrs on
    · exact h.setSignal hA hrw on
    · exact h.setSignal hA hen on
  port input h := h.setDir .data 0xFF input
  sample h := h.portIn
  deadline h := h.aside rfl

variable {fp : Footprint} (hfp : fp.signals &&& k = 0x00#8)
include hfp

theorem Spares.perform (h : Spares A k s u) {m : Micro} (hm : m.within s.cfg.sig fp) : Ends (Spares A k s) (perform m u) := by
  cases m with
  | signal m on => exact (h.setSignal hA (disjoint_of_part hm hfp) on).ends_plain
  | dir p m input => exact (h.setDir p m input).ends_plain
  | dataOut b => exact Throughout.ends_plain (transact_throughout (fun _ => h.aside rfl) (h.aside rfl))
  | sample => exact ends_sample h.portIn fun _ _ hu => hu.trans (.of_silent rfl rfl rfl)
  | wait => exact (spares_pollKeeps hA (disjoint_of_part hm.lines hfp)).waitReady h
  | poll n => exact (spares_pollKeeps hA (disjoint_of_part hm.lines hfp)).busyPoll _ n h
  | delay d => exact h.aside rfl
  | pos k p => cases k <;> exact h.trans (.of_silent rfl rfl rfl)
  | _ => exact h.trans (.of_silent rfl rfl rfl)

theorem Spares.run (h : Spares A k s u) {ms : List Micro} (hms : Within s.cfg.sig fp ms) : Spares A k s (run ms u) :=
  run_keeps ms u h (fun m hm _ hu => hu.perform hA hfp (hms m hm)) (fun _ hu => hu.trans (.of_silent rfl rfl rfl))
    (fun _ _ hu => hu.trans (.of_silent rfl rfl rfl))

end

/-- A run of two parts, the bytes of the second being accounted for from wherever the first leads. -/
theorem spares_run_append {a b : List Micro} (h : Spares A k s u)
    (ha : ∀ m ∈ a, ∀ t, Spares A k s t → Ends (Spares A k s) (perform m t))
    (hb : ∀ t, Spares A 0x00#8 s t → Spares A 0x00#8 s (run b t)) : Spares A 0x00#8 s (run (a ++ b) u) := by
  induction a generalizing u with
  | nil => exact hb u h.forget
  | cons m ms ih =>
    obtain ⟨hm, hms⟩ := List.forall_mem_cons.1 ha
    have hends := hm u h
    rw [List.cons_append]
    rcases hr : perform m u with t | t | ⟨m', t⟩ <;> rw [hr] at hends
    · rw [run_error hr]
      exact hends.forget.trans (.of_silent rfl rfl rfl)
    · rw [run_done hr]
      exact ih hends hms
    · rw [run_hold hr]
      exact hends.forget.trans (.of_silent rfl rfl rfl)

end

end Sys2Proof.Machine
end

section
/-! OBLIGATION. No control byte selects both potentiometers (43_potentiometer.md R240; 70_reset_and_hazards.md R319): an
instruction leaves one select alone, and POWER_ON goes over from one to the other while both are high. -/

namespace Sys2Proof.Machine

/-! ## Selects -/

/-- A control byte that deselects one potentiometer at least (R319). -/
def OneDeselected (sg : SigMap) (w : Byte) : Prop := signalHigh sg.ccs w = true ∨ signalHigh sg.bcs w = true

/-- Bytes that agree on a mask agree on whether it is high. -/
theorem signalHigh_congr {k v w : Byte} (h : v &&& k = w &&& k) : signalHigh k v = signalHigh k w := by
  rw [signalHigh, signalHigh, h]

/-- Bits that are all at 1. -/
theorem signalHigh_of_and_eq {k v : Byte} (hk : k ≠ 0x00#8) (h : v &&& k = k) : signalHigh k v = true := by
  rw [signalHigh, h, decide_eq_true hk]

/-- A select is a signal. -/
theorem select_ne_zero {sg : SigMap} (h : sg.wf = true) : sg.ccs ≠ 0x00#8 ∧ sg.bcs ≠ 0x00#8 := by
  simp only [SigMap.wf, SigMap.masks, Bool.and_eq_true, List.all_eq_true] at h
  obtain ⟨hone, -⟩ := h
  exact ⟨oneBit_ne_zero (hone _ (by simp)), oneBit_ne_zero (hone _ (by simp))⟩

/-- Every instruction but POWER_ON drives one select at most. -/
theorem signals_spare_select {sg : SigMap} (h : sg.wf = true) {i : Instr} (hi : i ≠ .powerOn) :
    signals sg i &&& sg.ccs = 0x00#8 ∨ signals sg i &&& sg.bcs = 0x00#8 := by
  have hd := SigMap.wf_disjoint h
  obtain ⟨hccs, -⟩ := lineMask_disjoint h
  have contrast : (sg.ccs ||| sg.ud) &&& sg.bcs = 0x00#8 := or_disjoint.2 ⟨hd.ccs_bcs, and_zero_comm hd.bcs_ud⟩
  have backlight : (sg.bcs ||| sg.ud) &&& sg.ccs = 0x00#8 :=
    or_disjoint.2 ⟨and_zero_comm hd.ccs_bcs, and_zero_comm hd.ccs_ud⟩
  cases i with
  | powerOn => exact absurd rfl hi
  | powerOff | close => exact .inl (and_zero_comm hd.ccs_pwr)
  | setContrast _ | contrastInc | contrastDec => exact .inr contrast
  | setBacklight _ | backlightInc | backlightDec => exact .inl backlight
  | _ => exact .inl hccs

/-- An instruction that drives no signal of `k`. -/
theorem spares_exec {A : Byte → Prop} {k : Byte} {i : Instr} {s t : State} (hk : signals s.cfg.sig i &&& k = 0x00#8)
    (hA : ∀ w, w &&& k = s.shadow &&& k → A w) (h : exec i s = .next t) : Spares A k s.begin t := by
  rcases exec_cases h with ⟨e, rfl⟩ | ⟨g, ms, hp, rfl⟩
  · exact .of_silent rfl rfl rfl
  · exact Spares.refl.run (s := s.begin) hA (fp := footprint s.cfg.sig i) hk (within_program hp)

/-! ## POWER_ON -/

/-- The footprint of all but the signals of `k`. -/
def allBut (k : Byte) : Footprint := { wholeBlock with signals := ~~~k }

theorem allBut_signals (k : Byte) : (allBut k).signals &&& k = 0x00#8 := by
  rw [BitVec.and_comm]
  exact BitVec.and_not_self k

theorem and_not_allBut {m k : Byte} (h : m &&& k = 0x00#8) : m &&& ~~~(allBut k).signals = 0x00#8 := by
  rw [allBut, BitVec.not_not, h]

/-- A step that turns a port. -/
def Micro.isTurn : Micro → Bool
  | .dir _ _ _ => true
  | _ => false

/-- A potentiometer's requests leave the other select alone. -/
theorem allBut_pulses {sg : SigMap} (h : sg.wf = true) :
    (allBut sg.bcs).Pulses sg .contrast ∧ (allBut sg.ccs).Pulses sg .backlight := by
  have hd := SigMap.wf_disjoint h
  exact ⟨⟨and_not_allBut hd.ccs_bcs, and_not_allBut (and_zero_comm hd.bcs_ud), List.mem_cons_self⟩,
    ⟨and_not_allBut (and_zero_comm hd.ccs_bcs), and_not_allBut (and_zero_comm hd.ccs_ud),
      List.mem_cons_of_mem _ List.mem_cons_self⟩⟩

/-- What POWER_ON does after the contrast (41_lcd_control.md R173) does not drive the contrast's select. -/
theorem within_powerOn_rest (s : State) (g : Geometry) (h : s.cfg.sig.wf = true) :
    Within s.cfg.sig (allBut s.cfg.sig.ccs)
      (potPowerOn s.cfg.sig .backlight s.backlight ++ [.signal s.cfg.sig.pwr true, .powered true] ++ initProtocol s.cfg g
        ++ [.respond]) := by
  have hd := SigMap.wf_disjoint h
  obtain ⟨hccs, -⟩ := lineMask_disjoint h
  have hlines : (allBut s.cfg.sig.ccs).Transfers s.cfg.sig := ⟨and_not_allBut hccs, rfl⟩
  have hpower : Within s.cfg.sig (allBut s.cfg.sig.ccs) [.signal s.cfg.sig.pwr true, .powered true] :=
    .cons (and_not_allBut (and_zero_comm hd.ccs_pwr)) (.cons rfl .nil)
  exact (((within_potPowerOn (allBut_pulses h).2 rfl _).append hpower).append
    (within_initProtocol hlines rfl rfl (fun op _ => mem_wholeBlock_slots op) g)).append .respond

/-- Before POWER_ON raises the contrast's select for the last time, it does not drive the backlight's, and if the contrast is at 0
it only turns ports; after that it does not drive the contrast's (R246). -/
theorem powerOnSteps_split (s : State) (g : Geometry) (h : s.cfg.sig.wf = true) :
    ∃ early late, powerOnSteps s g = early ++ .signal s.cfg.sig.ccs true :: late
      ∧ Within s.cfg.sig (allBut s.cfg.sig.bcs) early ∧ (s.contrast = 0 → ∀ m ∈ early, m.isTurn = true)
      ∧ Within s.cfg.sig (allBut s.cfg.sig.ccs) late := by
  have hrest := within_powerOn_rest s g h
  obtain ⟨hsel, hud, -⟩ := (allBut_pulses h).1
  have hturns : Within s.cfg.sig (allBut s.cfg.sig.bcs)
      (lcdPortsOut s.cfg.sig ++ [.dir .control (s.cfg.sig.ccs ||| s.cfg.sig.ud) false]) :=
    .cons rfl (.cons rfl (.cons rfl .nil))
  by_cases h0 : s.contrast = 0
  · refine ⟨_, _, ?_, hturns, fun _ => by simp [lcdPortsOut, Micro.isTurn], hrest⟩
    simp [powerOnSteps, potPowerOn, setWiper_zero, h0, selectMask]
  · have hpulse : Within s.cfg.sig (allBut s.cfg.sig.bcs) (burstPulse s.cfg.sig false) := .cons hud (.cons hud .nil)
    have hpulses : Within s.cfg.sig (allBut s.cfg.sig.bcs) ([.signal s.cfg.sig.ccs true, .signal s.cfg.sig.ud false,
        .signal s.cfg.sig.ccs false] ++ (List.replicate s.contrast (burstPulse s.cfg.sig false)).flatten) :=
      .append (.cons hsel (.cons hud (.cons hsel .nil))) (hpulse.replicate _)
    refine ⟨_, .pos .contrast 0 :: _, ?_, hturns.append hpulses, fun hc => absurd hc h0, .cons List.mem_cons_self hrest⟩
    simp [powerOnSteps, potPowerOn, setWiper_zero, h0, selectMask, burst]

/-- POWER_ON from where it raises the contrast's select for the last time. -/
theorem spares_powerOn_late {s u : State} (hsig : s.cfg.sig.wf = true) (h : Spares (OneDeselected s.cfg.sig) 0x00#8 s u)
    {late : List Micro} (hlate : Within s.cfg.sig (allBut s.cfg.sig.ccs) late) :
    Spares (OneDeselected s.cfg.sig) 0x00#8 s (run (.signal s.cfg.sig.ccs true :: late) u) := by
  obtain ⟨v, hv⟩ : ∃ v, maskBits s.cfg.sig.ccs true u.shadow = v := ⟨_, rfl⟩
  have hhigh : signalHigh s.cfg.sig.ccs v = true :=
    signalHigh_of_and_eq (select_ne_zero hsig).1 (hv ▸ maskBits_true_and_self _ _)
  have hlevel : v &&& 0x00#8 = u.shadow &&& 0x00#8 := by rw [BitVec.and_zero, BitVec.and_zero]
  rcases run_transact_cases (u := u) (m := .signal s.cfg.sig.ccs true) rfl late with ⟨f, hr⟩ | hr <;> rw [hr, hv]
  · have hraised := h.control (e := .wc v) rfl (.inl hhigh) hlevel f
    have hkept := Spares.refl.run (s := ((u.setShadow v).setFaultIn f).emit (.wc v)) (A := OneDeselected s.cfg.sig)
      (fun w hw => .inl ((signalHigh_congr hw).trans hhigh)) (allBut_signals s.cfg.sig.ccs) (by rw [hraised.sig]; exact hlate)
    exact hraised.trans hkept.forget
  · have hfailed := h.control (e := .fails (.wc v)) rfl (.inl hhigh) hlevel u.faultIn
    exact hfailed.trans (.of_silent rfl rfl rfl)

/-- POWER_ON with the contrast at 0, or with the backlight's select high. -/
theorem spares_powerOn {s t : State} (hsig : s.cfg.sig.wf = true)
    (hs : s.contrast = 0 ∨ signalHigh s.cfg.sig.bcs s.shadow = true)
    (h : exec .powerOn s = .next t) : Spares (OneDeselected s.cfg.sig) 0x00#8 s.begin t := by
  rcases exec_cases h with ⟨e, rfl⟩ | ⟨g, ms, hp, rfl⟩
  · exact .of_silent rfl rfl rfl
  cases hp
  obtain ⟨early, late, hsplit, hearly, hturns, hlate⟩ := powerOnSteps_split s g hsig
  rw [hsplit]
  have hfinish : ∀ u, Spares (OneDeselected s.cfg.sig) 0x00#8 s.begin u →
      Spares (OneDeselected s.cfg.sig) 0x00#8 s.begin (run (.signal s.cfg.sig.ccs true :: late) u) :=
    fun u hu => spares_powerOn_late (s := s.begin) hsig hu hlate
  rcases hs with h0 | hbcs
  · refine spares_run_append (k := 0x00#8) .refl (fun m hm u hu => ?_) hfinish
    have hturn := hturns h0 m hm
    cases m with
    | dir p m input => exact (hu.setDir p m input).ends_plain
    | _ => cases hturn
  · have hA : ∀ w, w &&& s.cfg.sig.bcs = s.shadow &&& s.cfg.sig.bcs → OneDeselected s.cfg.sig w := fun w hw =>
      .inr ((signalHigh_congr hw).trans hbcs)
    exact spares_run_append (k := s.cfg.sig.bcs) .refl
      (fun m hm u hu => hu.perform (s := s.begin) hA (allBut_signals _) (hearly m hm)) hfinish

/-! ## A held request -/

/-- What is left of a held request drives no select (70_reset_and_hazards.md R314). -/
theorem within_allBut_of_mayBeHeld {sg : SigMap} {g : Geometry} {m : Micro} (h : sg.wf = true) (hm : m.mayBeHeld sg g) :
    m.within sg (allBut (sg.ccs ||| sg.bcs)) := by
  have hlines : (allBut (sg.ccs ||| sg.bcs)).Transfers sg := ⟨and_not_allBut (lineMask_and_selects h), rfl⟩
  cases m with
  | signal m on => exact and_not_allBut hm.2
  | dir p m input => cases p <;> rfl
  | wait | poll n => exact hlines
  | record op v => exact mem_wholeBlock_slots op
  | cursor c r => rfl
  | dataOut b | sample | delay t | respond => trivial
  | _ => exact hm.elim

theorem spares_resume {A : Byte → Prop} {s : State} (hinv : Inv s) {m : Micro} {ms : List Micro} (hs : s.seq = m :: ms)
    (hA : ∀ w, w &&& (s.cfg.sig.ccs ||| s.cfg.sig.bcs) = s.shadow &&& (s.cfg.sig.ccs ||| s.cfg.sig.bcs) → A w) :
    Spares A (s.cfg.sig.ccs ||| s.cfg.sig.bcs) s (resume m ms s) := by
  obtain ⟨-, -, -, -, g, -, hheld⟩ := hinv.held (by rw [hs]; exact List.cons_ne_nil _ _)
  rw [hs] at hheld
  have hstart : Spares A (s.cfg.sig.ccs ||| s.cfg.sig.bcs) s (s.setSeq []) := .of_silent rfl rfl rfl
  exact hstart.run hA (allBut_signals _) fun x hx => within_allBut_of_mayBeHeld hinv.sig (hheld x hx)

/-! ## The obligation -/

/-- From a new trace, the bytes of the whole trace. -/
theorem Spares.of_begin {A : Byte → Prop} {k : Byte} {s t : State} (h : Spares A k s.begin t) :
    ∀ e ∈ t.trace, ∀ w, e.controlByte = some w → A w := by
  obtain ⟨new, htr, hnew⟩ := h.bytes
  rw [State.begin_trace, List.nil_append] at htr
  rwa [htr]

/-- Settles O22: a select that an instruction does not drive stays high; POWER_ON raises the contrast's before it first drives the
backlight's, and leaves it high from there on; a held request drives neither. -/
theorem oneSelectAtATime : Obligations.OneSelectAtATime := by
  refine ⟨fun i s t hsig hccs hbcs h => ?_, fun s t hsig hs h => (spares_powerOn hsig hs h).of_begin,
    fun s t hinv hseq hstep => ?_⟩
  · by_cases hi : i = .powerOn
    · subst hi
      exact (spares_powerOn hsig (.inr hbcs) h).of_begin
    · rcases signals_spare_select hsig hi with hk | hk
      · exact (spares_exec (A := OneDeselected s.cfg.sig) hk (fun w hw => .inl ((signalHigh_congr hw).trans hccs)) h).of_begin
      · exact (spares_exec (A := OneDeselected s.cfg.sig) hk (fun w hw => .inr ((signalHigh_congr hw).trans hbcs)) h).of_begin
  · rcases step_cases hstep with ⟨m, ms, hs, rfl⟩ | ⟨hidle, -⟩
    · obtain ⟨hctrl, hf, -⟩ := hinv.held hseq
      have hhigh := and_or_eq_self.2 (hinv.selects hf (.inl hctrl))
      obtain ⟨hccs, hbcs⟩ := select_ne_zero hinv.sig
      refine (spares_resume hinv hs fun w hw => ?_).bytes
      obtain ⟨hwccs, hwbcs⟩ := and_or_eq_self.1 (hw.trans hhigh)
      exact ⟨signalHigh_of_and_eq hccs hwccs, signalHigh_of_and_eq hbcs hwbcs⟩
    · exact absurd hidle hseq

end Sys2Proof.Machine
end

section
/-! OBLIGATION. What decode refuses of the host's forms, and what becomes of it (30_encoding.md R93; 60_exceptions.md R276). -/

namespace Sys2Proof.Machine

/-- Every word is put together from its four bytes (30_encoding.md R91). -/
theorem word_eq_bytes (w : BitVec 32) : byteAt w 24 ++ byteAt w 16 ++ byteAt w 8 ++ byteAt w 0 = w := by
  refine BitVec.eq_of_getLsbD_eq fun i hi => ?_
  have hbyte : ∀ lo, lo ≤ i → i < lo + 8 → (byteAt w lo).getLsbD (i - lo) = w.getLsbD i := fun lo hle hlt => by
    have hbit : i - lo < 8 := by omega
    rw [byteAt, BitVec.getLsbD_extractLsb', Nat.add_sub_cancel' hle, decide_eq_true hbit, Bool.true_and]
  rw [word_getLsbD]
  split_ifs with h0 h8 h16
  · exact hbyte 0 (Nat.zero_le i) (by omega)
  · exact hbyte 8 (by omega) h8
  · exact hbyte 16 (by omega) h16
  · exact hbyte 24 (by omega) hi

/-- R93: a non-zero RSV, a reserved OP, a payload on a request that takes none, a glyph that is not 8 bytes. -/
def Refusable (w : BitVec 32) (p : List Byte) : Prop :=
  byteAt w 24 ≠ 0x00#8 ∨ byteAt w 0 ∉ requestOps ∨ (byteAt w 0 ≠ 0x06 ∧ byteAt w 0 ≠ 0x07 ∧ p ≠ []) ∨
    (byteAt w 0 = 0x07 ∧ p.length ≠ 8)

section
variable {w : BitVec 32} {p : List Byte}

/-- The error is one that answers IllegalRequest, in the order of R94. -/
theorem decode_of_refusable (sg : SigMap) (h : Refusable w p) :
    ∃ e, decode sg (.request w p) = .error e ∧ ∀ s, reject e s = .next (s.refused .illegalRequest) := by
  obtain ⟨hreserved, hunknown, hpayload, hglyph, -⟩ :=
    decodeRequest_law sg (byteAt w 0) (byteAt w 8) (byteAt w 16) (byteAt w 24) p
  rw [word_eq_bytes] at hreserved hunknown hpayload hglyph
  by_cases hrsv : byteAt w 24 = 0x00#8
  · by_cases hop : byteAt w 0 ∈ requestOps
    · rcases h with h | h | ⟨hprint, hdefine, hp⟩ | ⟨hdefine, hlen⟩
      · exact absurd hrsv h
      · exact absurd hop h
      · exact ⟨_, hpayload hrsv hop hprint hdefine hp, fun _ => rfl⟩
      · exact ⟨_, hglyph hrsv hdefine hlen, fun _ => rfl⟩
    · exact ⟨_, hunknown hrsv hop, fun _ => rfl⟩
  · exact ⟨_, hreserved hrsv, fun _ => rfl⟩

/-- Every other word is one of the 18 requests (R92). -/
theorem decode_of_not_refusable (sg : SigMap) (h : ¬Refusable w p) : ∃ i, decode sg (.request w p) = .ok i := by
  simp only [Refusable, not_or, not_and, not_not] at h
  obtain ⟨hrsv, hop, hpayload, hglyph⟩ := h
  simp only [requestOps, List.mem_cons, List.not_mem_nil, or_false] at hop
  rw [decode, decodeRequest, hrsv]
  rcases hop with hop | hop | hop | hop | hop | hop | hop | hop | hop | hop | hop | hop | hop | hop | hop | hop | hop | hop
  case inr.inr.inr.inr.inr.inl =>
    rw [hop]
    exact ⟨_, rfl⟩
  case inr.inr.inr.inr.inr.inr.inl =>
    rw [hop]
    exact ⟨_, if_pos (hglyph hop)⟩
  all_goals
    rw [hop, hpayload (by rw [hop]; decide) (by rw [hop]; decide)]
    exact ⟨_, rfl⟩

theorem decode_error_iff (sg : SigMap) : (∃ e, decode sg (.request w p) = .error e) ↔ Refusable w p := by
  refine ⟨fun ⟨e, he⟩ => ?_, fun h => ?_⟩
  · by_contra hnot
    obtain ⟨i, hi⟩ := decode_of_not_refusable sg hnot
    cases he.symm.trans hi
  · obtain ⟨e, he, -⟩ := decode_of_refusable sg h
    exact ⟨e, he⟩

/-- What decode refuses of the host's forms never stops the machine: it answers IllegalRequest (R276). -/
theorem reject_of_decode {sg : SigMap} {e : DecodeError} (h : decode sg (.request w p) = .error e) (s : State) :
    reject e s = .next (s.refused .illegalRequest) := by
  obtain ⟨e', he', hreject⟩ := decode_of_refusable sg ((decode_error_iff sg).1 ⟨e, h⟩)
  cases h.symm.trans he'
  exact hreject s

end

/-- What an idle step makes of the next coded form: decode's refusal, or the instruction's meaning. -/
theorem step_of_queue {s : State} {c : Code} {q : List Code} (hs : s.seq = []) (hq : s.queue = c :: q) :
    (∀ e, decode s.cfg.sig c = .error e → step s = reject e (s.setQueue q)) ∧
      ∀ i, decode s.cfg.sig c = .ok i → step s = exec i (s.setQueue q) := by
  have hfetch : fetch s = some (c, s.setQueue q) := by rw [fetch, hq]
  unfold step
  rw [hs, hfetch]
  dsimp only [State.setQueue_cfg]
  exact ⟨fun e hd => by rw [hd], fun i hd => by rw [hd]⟩

/-- A refused word answers in every state of an idle block (R276). -/
theorem step_of_refused {s : State} {w : BitVec 32} {p : List Byte} {q : List Code} {e : DecodeError} (hs : s.seq = [])
    (hq : s.queue = .request w p :: q) (hd : decode s.cfg.sig (.request w p) = .error e) :
    step s = .next ((s.setQueue q).refused .illegalRequest) := by
  rw [(step_of_queue hs hq).1 e hd]
  exact reject_of_decode hd _

/-- Settles O9: R93's causes are decode's errors on the host's forms, and each of these errors is a refusal. -/
theorem illegalRequest : Obligations.IllegalRequest :=
  ⟨fun sg _ _ => decode_error_iff sg, fun _ _ _ _ _ hs hq hd => step_of_refused hs hq hd⟩

end Sys2Proof.Machine
end

section
/-! OBLIGATION. The checks of `handle`, in order (60_exceptions.md R277): which states refuse an instruction, and the range check
that comes first in its own rule (R275). -/

namespace Sys2Proof.Machine

/-- Settles O7: every meaning is one served list of steps, and that is a next state. -/
theorem execAnswers : Obligations.ExecAnswers := fun i s => ⟨_, exec_eq_serve i s⟩

/-! ## The state checks -/

section
variable {needReady : Bool} {s : State}

theorem admission_of_faulted (hf : s.faulted = true) : admission needReady s = some .busFault := if_pos hf

theorem admission_of_closed (hf : s.faulted = false) (hc : s.closed = true) :
    admission needReady s = some .protocolPrecondition := by
  simp [admission, hf, hc]

theorem admission_of_not_ready (hf : s.faulted = false) (hr : s.ctrl ≠ .ready) :
    admission true s = some .protocolPrecondition := by
  simp [admission, hf, hr]

end

/-- ConfigError refuses every instruction (R271). -/
theorem exec_of_configError {s : State} (hg : s.geom = none) (i : Instr) :
    exec i s = .next (s.refused .configurationError) := by
  rw [exec_eq_serve, serve, hg]
  rfl

/-- The state check that does not pass gives the response (R277). -/
theorem exec_of_admission {i : Instr} {s : State} {e : Status} (hg : s.geom ≠ none) (ha : admission (needsReady i) s = some e) :
    exec i s = .next (s.refused e) := by
  obtain ⟨g, hg⟩ := Option.ne_none_iff_exists'.1 hg
  rw [exec_eq_serve, serve, hg]
  dsimp only
  rw [ha]
  rfl

/-- Every request but POWER_ON, POWER_OFF and CLOSE needs a Ready block (R277), and a busy read (70_reset_and_hazards.md R310). -/
theorem needsReady_of_request {i : Instr} (h : (i.isRequest = true ∧ i.lifecycle = false) ∨ i = .busBusyRead) :
    needsReady i = true := by
  rcases h with ⟨hi, hl⟩ | rfl
  · cases i with
    | busBusyRead => rfl
    | _ => exact Bool.and_eq_true_iff.2 ⟨hi, congrArg (!·) hl⟩
  · rfl

/-- Settles O10, one state check after the other. -/
theorem refusedStates : Obligations.RefusedStates := fun i _ =>
  ⟨fun hg => exec_of_configError hg i,
    fun hg hf => exec_of_admission hg (admission_of_faulted hf),
    fun hg hf hc => exec_of_admission hg (admission_of_closed hf hc),
    fun hg hf _ hi hr => exec_of_admission hg (needsReady_of_request hi ▸ admission_of_not_ready hf hr)⟩

/-! ## The range check -/

/-- A Ready block whose instruction's range check does not pass (R275). -/
theorem exec_of_range {s : State} {g : Geometry} (h : Ready s g) {i : Instr} (hi : needsReady i = true) {e : Status}
    (hp : program s i g = .error e) : exec i s = .next (s.refused e) := by
  rw [exec_eq_serve, hi, serve_ready h, hp]
  rfl

/-- The only range checks are those of a row and of a glyph's index (R275). -/
theorem program_range {s : State} {i : Instr} {g : Geometry} {e : Status} (h : program s i g = .error e) :
    (∃ row, i = .readRow row ∧ g.rows ≤ row.toNat) ∨ ∃ index bitmap, i = .defineGlyph index bitmap ∧ 7 < index.toNat := by
  cases i with
  | readRow row =>
    rw [program, readRowSteps] at h
    split at h
    · exact .inl ⟨row, rfl, ‹_›⟩
    · cases h
  | defineGlyph index bitmap =>
    rw [program, glyphSteps] at h
    split at h
    · exact .inr ⟨index, bitmap, rfl, ‹_›⟩
    · cases h
  | _ => cases h

/-- Settles O11: the two range checks refuse, and of the other ways an instruction goes none answers RangeError. -/
theorem rangeErrors : Obligations.RangeErrors := by
  refine ⟨fun s g row hs hrow => exec_of_range hs rfl (if_pos hrow),
    fun s g index bitmap hs hindex => exec_of_range hs rfl (if_pos hindex), fun i s t h ⟨d, hd⟩ => ?_⟩
  rcases exec_outcome h with ⟨-, rfl⟩ | ⟨g, hg, ⟨e, ha, rfl⟩ | ⟨-, ⟨hp, rfl⟩ | ⟨ms, -, rfl⟩⟩⟩
  · cases hd
  · rcases admission_some ha with rfl | ⟨rfl, -⟩ <;> cases hd
  · refine ⟨rfl, ?_⟩
    rcases program_range hp with ⟨row, rfl, hrow⟩ | hglyph
    · exact .inl ⟨row, g, rfl, hg, hrow⟩
    · exact .inr hglyph
  · rcases okOrBusFault_run ms (okOrBusFault_begin s) _ hd with hok | hfault
    · cases hok
    · cases hfault

/-! ## The order -/

/-- An error that is not a bus fault of the request itself leaves an empty trace (R277, R278). -/
theorem exec_error_trace {i : Instr} {s t : State} {r : Response} (h : exec i s = .next t) (hr : t.response = some r)
    (hne : r.status ≠ .ok) : t.trace = [] ∨ (r.status = .busFault ∧ s.faulted = false) := by
  rcases exec_outcome h with ⟨-, rfl⟩ | ⟨g, -, ⟨e, -, rfl⟩ | ⟨ha, ⟨-, rfl⟩ | ⟨ms, -, rfl⟩⟩⟩
  · exact .inl rfl
  · exact .inl rfl
  · exact .inl rfl
  · rcases okOrBusFault_run ms (okOrBusFault_begin s) r hr with hok | rfl
    · exact absurd hok hne
    · exact .inr ⟨rfl, (admission_none ha).1⟩

/-- Settles O8: an idle step decodes, and what decodes is refused by the first state check that does not pass. -/
theorem handleOrder : Obligations.HandleOrder := by
  refine ⟨fun i s t r h hr hne => exec_error_trace h hr hne, fun s w p q hs hq => ?_⟩
  cases hd : decode s.cfg.sig (.request w p) with
  | error e => exact step_of_refused hs hq hd
  | ok i =>
    rw [(step_of_queue hs hq).2 i hd]
    obtain ⟨hconfig, hfaulted, hclosed, hready⟩ := refusedStates i (s.setQueue q)
    dsimp only
    split_ifs with hg hf hc hr
    · exact hconfig hg
    · exact hfaulted hg hf
    · exact hclosed hg (Bool.eq_false_iff.2 hf) hc
    · exact hready hg (Bool.eq_false_iff.2 hf) (Bool.eq_false_iff.2 hc) (.inl ⟨isRequest_of_decodeRequest hd, hr.1⟩) hr.2
    · rfl

end Sys2Proof.Machine
end

section
/-! OBLIGATION. A bus fault ends the request at once (60_exceptions.md R270, R274, R278): a step of the pseudocode fails only at
its last event. -/

namespace Sys2Proof.Machine

/-! ## Parts of a request in which nothing has failed -/

/-- Between `s` and `t` nothing has failed: the block is not faulted, and no event added is a failure. -/
structure Unfailed (s t : State) : Prop where
  faulted : t.faulted = false
  events : ∃ new, t.trace = s.trace ++ new ∧ ∀ e ∈ new, e.isFailure = false

section
variable {s t u : State}

/-- What adds no event fails nothing. -/
theorem Unfailed.silent (h : Unfailed s t) (hf : u.faulted = t.faulted) (htr : u.trace = t.trace) : Unfailed s u :=
  ⟨hf.trans h.faulted, htr ▸ h.events⟩

theorem Unfailed.refl (hf : s.faulted = false) : Unfailed s s := ⟨hf, [], (List.append_nil _).symm, nofun⟩

theorem Unfailed.emit (h : Unfailed s t) {e : Event} (he : e.isFailure = false) : Unfailed s (t.emit e) := by
  obtain ⟨hf, new, htr, hnew⟩ := h
  refine ⟨hf, new ++ [e], ?_, fun x hx => ?_⟩
  · rw [State.emit_trace, htr, List.append_assoc]
  · rcases List.mem_append.1 hx with hx | hx
    · exact hnew x hx
    · rwa [List.mem_singleton.1 hx]

end

/-- Part of a step adds no failure, or faults by adding one failure last (`st` of what it answers is its state). -/
def FailsLast {α : Type} (st : α → State) (s : State) : Except State α → Prop
  | .error t => ∃ u e, Unfailed s u ∧ e.isFailure = true ∧ t = u.emit e
  | .ok a => Unfailed s (st a)

/-- The state of a step that did not fault. -/
def Done.state : Done → State
  | .done s => s
  | .hold _ s => s

section
variable {s t : State}

theorem FailsLast.bind {α β : Type} {st : α → State} {st' : β → State} {r : Except State α} {f : α → Except State β}
    (h : FailsLast st s r) (hf : ∀ a, Unfailed s (st a) → FailsLast st' s (f a)) : FailsLast st' s (r >>= f) := by
  cases r with
  | error _ => exact h
  | ok a => exact hf a h

theorem FailsLast.plain {r : Except State State} (h : FailsLast id s r) : FailsLast Done.state s (plain r) := by
  cases r <;> exact h

/-! ## The primitives -/

theorem Unfailed.transact (h : Unfailed s t) (x : Tx) {e : Event} (he : e.isFailure = false) :
    FailsLast id s (transact x e t) := by
  rcases transact_cases x e t with ⟨f, hr⟩ | hr <;> rw [hr]
  · exact Unfailed.emit (t := t.setFaultIn f) (h.silent rfl rfl) he
  · exact ⟨t, .fails x, h, rfl, rfl⟩

theorem Unfailed.setSignal (h : Unfailed s t) (m : Byte) (on : Bool) : FailsLast id s (setSignal m on t) := by
  have hcopy : Unfailed s (t.setShadow (maskBits m on t.shadow)) := h.silent rfl rfl
  exact hcopy.transact (.wc _) (e := .wc _) rfl

theorem Unfailed.setDir (h : Unfailed s t) (p : Port) (m : Byte) (input : Bool) : FailsLast id s (setDir p m input t) := by
  have hcopy : Unfailed s (t.setDirOf p (maskBits m input (t.dirOf p))) := by cases p <;> exact h.silent rfl rfl
  exact hcopy.transact (.dir p _) (e := .dir p _) rfl

theorem Unfailed.portIn (h : Unfailed s t) : FailsLast Prod.snd s (portIn t) := by
  have htransact := h.transact .rd (e := .rd (nextInput t)) rfl
  unfold Machine.portIn
  split <;> rename_i hr <;> rw [hr] at htransact
  · exact htransact
  · exact htransact.silent rfl rfl

/-! ## The busy poll -/

theorem Unfailed.pollOnce (h : Unfailed s t) : FailsLast Prod.snd s (pollOnce t) := by
  refine (h.setSignal _ false).bind fun t h => ?_
  refine (h.setSignal _ true).bind fun t h => ?_
  refine (h.setDir .data 0xFF true).bind fun t h => ?_
  refine (h.setSignal _ true).bind fun t h => ?_
  refine h.portIn.bind fun r h => ?_
  refine (h.setSignal _ false).bind fun t h => ?_
  exact (h.setDir .data 0xFF false).bind fun t h => h

/-- A poll that reaches its deadline marks it last (40_bus_primitives.md R146). -/
theorem Unfailed.pollTest (h : Unfailed s t) {again : State → Except State Done} (hagain : FailsLast Done.state s (again t))
    (n : Nat) (v : Byte) : FailsLast Done.state s (pollTest n again v t) := by
  unfold Machine.pollTest
  split
  · split
    · exact ⟨t, .deadline, h, rfl, rfl⟩
    · exact hagain
  · exact h

/-- One iteration, and the poll as it goes on from there. -/
theorem Unfailed.iteration (h : Unfailed s t) {fuel n : Nat}
    (hgo : ∀ u, Unfailed s u → FailsLast Done.state s (goOn fuel n u)) : FailsLast Done.state s (busyPoll fuel n t) := by
  have hone := h.pollOnce
  rcases hr : Machine.pollOnce t with u | ⟨v, u⟩ <;> rw [hr] at hone
  · rwa [busyPoll_of_error hr]
  · rw [busyPoll_of_ok hr]
    exact Unfailed.pollTest hone (hgo u hone) n v

theorem Unfailed.busyPoll (h : Unfailed s t) (fuel n : Nat) : FailsLast Done.state s (busyPoll fuel n t) := by
  induction fuel generalizing n t with
  | zero => exact h.iteration fun _ hu => hu
  | succ fuel ih => exact h.iteration fun _ hu => ih hu (n + 1)

/-! ## Steps and runs -/

theorem Unfailed.perform (h : Unfailed s t) (m : Micro) : FailsLast Done.state s (perform m t) := by
  cases m with
  | signal m on => exact (h.setSignal m on).plain
  | dir p m input => exact (h.setDir p m input).plain
  | dataOut b => exact (h.transact (.wd b) rfl).plain
  | sample =>
    have hread := h.portIn
    rw [Machine.perform]
    rcases hr : Machine.portIn t with u | ⟨v, u⟩ <;> rw [hr] at hread
    · exact hread
    · exact Unfailed.silent hread rfl rfl
  | wait =>
    rw [Machine.perform, waitReady]
    split
    · exact h
    · exact h.busyPoll _ 0
  | poll n => exact h.busyPoll _ n
  | delay d => exact h.emit rfl
  | pos k p => cases k <;> exact h.silent rfl rfl
  | _ => exact h.silent rfl rfl

/-- From `s`, the request has met no failure by `t`, or one failure ended it there. -/
def FaultsOnce (s t : State) : Prop :=
  Unfailed s t ∨ ∃ u e, Unfailed s u ∧ e.isFailure = true ∧ t = onBusFault (u.emit e)

theorem Unfailed.run (h : Unfailed s t) (ms : List Micro) : FaultsOnce s (run ms t) := by
  induction ms generalizing t with
  | nil => exact .inl h
  | cons m ms ih =>
    have hstep := h.perform m
    rcases hr : Machine.perform m t with u | u | ⟨m', u⟩ <;> rw [hr] at hstep
    · obtain ⟨v, e, hv, he, rfl⟩ := hstep
      rw [run_error hr]
      exact .inr ⟨v, e, hv, he, rfl⟩
    · rw [run_done hr]
      exact ih hstep
    · rw [run_hold hr]
      exact .inl (Unfailed.silent hstep rfl rfl)

/-- An instruction, from the state with the new trace. -/
theorem faultsOnce_exec {i : Instr} (h : exec i s = .next t) (hf : s.faulted = false) : FaultsOnce s.begin t := by
  have hbegin : Unfailed s.begin s.begin := .refl hf
  rcases exec_cases h with ⟨e, rfl⟩ | ⟨g, ms, -, rfl⟩
  · exact .inl (hbegin.silent rfl rfl)
  · exact hbegin.run ms

/-- A held request that goes on. -/
theorem faultsOnce_resume (hf : s.faulted = false) (m : Micro) (ms : List Micro) : FaultsOnce s (resume m ms s) :=
  Unfailed.run (t := s.setSeq []) ((Unfailed.refl hf).silent rfl rfl) (m :: ms)

/-! ## The obligation -/

/-- Read off the events added: the block is faulted exactly if one is a failure, and then it has answered and that one is last. -/
theorem FaultsOnce.ends (h : FaultsOnce s t) :
    ∃ new, t.trace = s.trace ++ new ∧ (t.faulted = true ↔ ∃ e ∈ new, e.isFailure = true) ∧
      (t.faulted = true →
        t.response = some { status := .busFault, data := [] } ∧ t.seq = [] ∧
          ∃ tr e, new = tr ++ [e] ∧ e.isFailure = true ∧ ∀ x ∈ tr, x.isFailure = false) := by
  rcases h with ⟨hf, new, htr, hnew⟩ | ⟨u, e, ⟨-, tr, htr, hnew⟩, he, rfl⟩
  · refine ⟨new, htr, iff_of_false (ne_true_of_eq_false hf) ?_, fun ht => flag_absurd ht hf⟩
    rintro ⟨e, hmem, he⟩
    exact flag_absurd he (hnew e hmem)
  · refine ⟨tr ++ [e], ?_, iff_of_true rfl ⟨e, List.mem_concat_self, he⟩, fun _ => ⟨rfl, rfl, tr, e, rfl, he, hnew⟩⟩
    rw [← List.append_assoc, ← htr]
    rfl

end

/-- Settles O27: each step of the pseudocode fails only at its last event, and a run stops at the step that faults. -/
theorem faultEnds : Obligations.FaultEnds := by
  refine ⟨fun s t hs hstep hf => ?_, fun i s t h hf => ?_⟩
  · rcases step_cases hstep with ⟨m, ms, -, rfl⟩ | ⟨hidle, -⟩
    · exact (faultsOnce_resume hf m ms).ends
    · exact absurd hidle hs
  · obtain ⟨new, htr, hends⟩ := (faultsOnce_exec h hf).ends
    rw [State.begin_trace, List.nil_append] at htr
    rwa [htr]

end Sys2Proof.Machine
end

section
/-! OBLIGATION. The state after construction, field by field (70_reset_and_hazards.md R300, R301). -/

namespace Sys2Proof.Machine

section
variable {p : Params} {c r : Nat}

theorem construct_supported {g : Geometry} (h : geometryOf p c r = some g) (v : Byte) :
    construct p c r (some v) = { State.reset with cfg := p, geom := some g, shadow := v, trace := [.rc v] } := by
  rw [construct, h]

/-- The read of the latch faults (R300). -/
theorem construct_latch_fault {g : Geometry} (h : geometryOf p c r = some g) :
    construct p c r none =
      { State.reset with cfg := p, geom := some g, shadow := Config.latchUnknown, faulted := true, trace := [.fails .rc] } := by
  rw [construct, h]

theorem construct_unsupported (h : geometryOf p c r = none) (latch : Option Byte) :
    construct p c r latch = { State.reset with cfg := p, geom := none, trace := [] } := by
  rw [construct, h]

end

/-- Settles O40: a construction is the reset state but for what the parameters and the latch give. -/
theorem construct_law : Obligations.Construct := by
  intro p c r v
  refine ⟨fun g hg => ?_, fun hg latch => ?_⟩
  · have hslots : ∀ op : LcdOp, State.reset.cs.get op = 0x00 := fun op => by cases op <;> rfl
    dsimp only
    rw [construct_supported hg, construct_latch_fault hg]
    exact ⟨rfl, rfl, rfl, rfl, rfl, hslots, rfl, rfl, rfl, rfl, rfl, rfl, rfl, rfl, rfl, rfl, rfl, rfl, rfl⟩
  · rw [construct_unsupported hg]
    exact ⟨rfl, rfl⟩

end Sys2Proof.Machine
end

section
/-! OBLIGATION. An idle block with nothing waiting, and where the data port is not sampled (70_reset_and_hazards.md R302,
R310). -/

namespace Sys2Proof.Machine

/-- Settles O6: with nothing held and an empty queue, `step` has nothing to fetch. -/
theorem stepIdle : Obligations.StepIdle := fun s hs hq => by
  rw [step, hs, fetch, hq]

/-! ## Steps that do not sample -/

/-- A sample of the data port, made or attempted. -/
def Event.isRead : Event → Bool
  | .rd _ => true
  | .fails .rd => true
  | _ => false

/-- The step cannot sample the data port: it neither samples nor polls, and if it waits the mode is known to be TimedDelay. -/
def Micro.isDeaf (timed : Bool) : Micro → Bool
  | .sample => false
  | .poll _ => false
  | .wait => timed
  | _ => true

/-- Whether the mode is known to be TimedDelay after the step. -/
def Micro.keepsTimed (timed : Bool) : Micro → Bool
  | .mode m => decide (m = .timedDelay)
  | _ => timed

/-- No step of the list can sample the data port, given whether the mode is known to be TimedDelay before it. -/
def deaf : Bool → List Micro → Bool
  | _, [] => true
  | timed, m :: ms => m.isDeaf timed && deaf (m.keepsTimed timed) ms

/-- Since `s` no sample was made or attempted; if `timed`, the mode is TimedDelay. -/
structure Unheard (s : State) (timed : Bool) (u : State) : Prop where
  reads : u.reads = s.reads
  events : ∀ e ∈ u.trace, e.isRead = false
  mode : timed = true → u.waitMode = .timedDelay

section
variable {s u : State} {timed : Bool}

theorem unheard_begin (h : timed = true → s.waitMode = .timedDelay) : Unheard s timed s.begin := ⟨rfl, nofun, h⟩

/-- An event that is no sample. -/
theorem Unheard.aside (h : Unheard s timed u) {e : Event} (he : e.isRead = false) {w dc dd : Byte} {f : Option Nat} :
    Unheard s timed { u with shadow := w, dirControl := dc, dirData := dd, trace := u.trace ++ [e], faultIn := f } :=
  { h with events := List.forall_mem_append.2 ⟨h.events, List.forall_mem_singleton.2 he⟩ }

theorem Unheard.perform (h : Unheard s timed u) {m : Micro} (hm : m.isDeaf timed = true) :
    Ends (Unheard s (m.keepsTimed timed)) (perform m u) := by
  cases m with
  | signal m on => exact Throughout.ends_plain (transact_throughout (fun _ => h.aside rfl) (h.aside rfl))
  | dir p m input => cases p <;> exact Throughout.ends_plain (transact_throughout (fun _ => h.aside rfl) (h.aside rfl))
  | dataOut b => exact Throughout.ends_plain (transact_throughout (fun _ => h.aside rfl) (h.aside rfl))
  | sample => cases hm
  | wait =>
    rw [Machine.perform, waitReady_timed (h.mode hm)]
    exact h
  | poll n => cases hm
  | delay t => exact h.aside rfl
  | pos k p => cases k <;> exact { h with }
  | mode m => exact { h with mode := of_decide_eq_true }
  | _ => exact { h with }

theorem Unheard.run {ms : List Micro} (hms : deaf timed ms = true) (h : Unheard s timed u) : Unheard s false (run ms u) := by
  induction ms generalizing timed u with
  | nil => exact { h with mode := nofun }
  | cons m ms ih =>
    obtain ⟨hm, hrest⟩ := Bool.and_eq_true_iff.1 hms
    have hstep := h.perform hm
    rcases hr : Machine.perform m u with t | t | ⟨m', t⟩ <;> rw [hr] at hstep
    · rw [run_error hr]
      exact { hstep with mode := nofun }
    · rw [run_done hr]
      exact ih hrest hstep
    · rw [run_hold hr]
      exact { hstep with mode := nofun }

end

/-! ## Instructions that do not sample -/

/-- Steps that drive the pins or track a position are passed over. -/
theorem deaf_append {timed : Bool} {a : List Micro} (ha : ∀ m ∈ a, m.drives = true ∨ ∃ k p, m = .pos k p)
    (b : List Micro) :
    deaf timed (a ++ b) = deaf timed b := by
  induction a with
  | nil => rfl
  | cons m ms ih =>
    obtain ⟨hm, hms⟩ := List.forall_mem_cons.1 ha
    rw [← ih hms]
    rcases hm with hm | ⟨k, p, rfl⟩
    · cases m with
      | signal _ _ | dir _ _ _ | dataOut _ | delay _ => rfl
      | _ => cases hm
    · rfl

theorem deaf_potPowerOn (timed : Bool) (sg : SigMap) (k : Pot) (p : Nat) (b : List Micro) :
    deaf timed (potPowerOn sg k p ++ b) = deaf timed b := by
  refine deaf_append (fun m hm => ?_) b
  rw [potPowerOn, setWiper_zero, List.mem_append] at hm
  rcases hm with hm | hm
  · simp only [List.mem_cons, List.not_mem_nil, or_false] at hm
    rcases hm with rfl | rfl <;> exact .inl rfl
  · split at hm
    · cases hm
    · rcases List.mem_append.1 hm with hm | hm
      · exact .inl (drives_burst sg k false p m hm)
      · exact .inr ⟨k, 0, List.mem_singleton.1 hm⟩

/-- POWER_ON waits only once it has set TimedDelay mode (41_lcd_control.md R172, R173), and the others do not wait. -/
theorem deaf_lifecycle {s : State} {i : Instr} {g : Geometry} {ms : List Micro} (hi : i.lifecycle = true)
    (h : program s i g = .ok ms) : deaf false ms = true := by
  cases i with
  | powerOn =>
    cases h
    simp only [powerOnSteps, List.append_assoc]
    rw [deaf_append (a := lcdPortsOut _) (by simp [lcdPortsOut, Micro.drives]), deaf_potPowerOn, deaf_potPowerOn]
    rfl
  | powerOff | close => cases h; rfl
  | _ => cases hi

/-- An instruction R310 speaks of, if it is admitted, samples nothing. -/
theorem unheard_run_program {s : State} {i : Instr} {g : Geometry} {ms : List Micro}
    (hi : i.lifecycle = true ∨ (s.ctrl ≠ .ready ∧ (i.isRequest = true ∨ i = .busBusyRead))
      ∨ (s.waitMode = .timedDelay ∧ i.lcdOperands ≠ none))
    (ha : admission (needsReady i) s = none) (h : program s i g = .ok ms) : Unheard s false (run ms s.begin) := by
  by_cases hl : i.lifecycle = true
  · exact (unheard_begin (timed := false) nofun).run (deaf_lifecycle hl h)
  · rcases hi with hl' | ⟨hctrl, hreq⟩ | ⟨hmode, hop⟩
    · exact absurd hl' hl
    · have hneeds := needsReady_of_request (hreq.imp (fun hr => ⟨hr, Bool.not_eq_true _ ▸ hl⟩) id)
      rw [hneeds] at ha
      exact absurd (admission_ready ha) hctrl
    · obtain ⟨⟨op, v⟩, hop⟩ := Option.ne_none_iff_exists'.1 hop
      rw [(isCommand_of_lcdOperands hop).steps s g] at h
      cases h
      exact (unheard_begin (timed := true) fun _ => hmode).run rfl

/-- Settles O20: what is refused has an empty trace, and what is admitted waits in TimedDelay mode only. -/
theorem noPollBeforeReady : Obligations.NoPollBeforeReady := by
  intro i s t hi h v
  have hevents : ∀ e ∈ t.trace, e.isRead = false := by
    rcases exec_outcome h with ⟨-, rfl⟩ | ⟨g, -, ⟨e, -, rfl⟩ | ⟨ha, ⟨-, rfl⟩ | ⟨ms, hp, rfl⟩⟩⟩
    · exact nofun
    · exact nofun
    · exact nofun
    · exact (unheard_run_program hi ha hp).events
  exact ⟨fun hr => flag_absurd rfl (hevents _ hr), fun hr => flag_absurd rfl (hevents _ hr)⟩

end Sys2Proof.Machine
end

section
/-! OBLIGATION. The lengths of whole requests in trace events (70_reset_and_hazards.md R331): each step makes a known number of
events, and a poll seven to each byte it reads. -/

namespace Sys2Proof.Machine

/-! ## What a part of a request adds to the trace -/

/-- From `s` to `t`, `n` events and `k` samples of the data port were made, and besides them some iterations of a poll, of seven
events and one sample each (40_bus_primitives.md R139). -/
def Metered (n k : Nat) (s t : State) : Prop := ∃ q, t.trace.length = s.trace.length + n + 7 * q ∧ t.reads = s.reads + k + q

/-- Part of a step, if it does not fault, is so metered (`st` of what it answers is its state). -/
def Meters {α : Type} (st : α → State) (n k : Nat) (s : State) : Except State α → Prop
  | .error _ => True
  | .ok a => Metered n k s (st a)

section
variable {n k n' k' : Nat} {s t u : State}

theorem Metered.of_silent (htr : t.trace = s.trace) (hr : t.reads = s.reads) : Metered 0 0 s t :=
  ⟨0, congrArg List.length htr, hr⟩

theorem Metered.trans (h : Metered n k s t) (h' : Metered n' k' t u) : Metered (n + n') (k + k') s u := by
  obtain ⟨q, htr, hr⟩ := h
  obtain ⟨q', htr', hr'⟩ := h'
  exact ⟨q + q', by omega, by omega⟩

/-- An iteration of a poll is metered as such. -/
theorem Metered.iteration (h : Metered 7 1 s t) : Metered 0 0 s t := by
  obtain ⟨q, htr, hr⟩ := h
  exact ⟨q + 1, by omega, by omega⟩

theorem Meters.bind {α β : Type} {st : α → State} {st' : β → State} {r : Except State α} {f : α → Except State β}
    (h : Meters st n k s r) (hf : ∀ a, Meters st' n' k' (st a) (f a)) : Meters st' (n + n') (k + k') s (r >>= f) := by
  cases r with
  | error _ => trivial
  | ok a =>
    have hrest := hf a
    show Meters st' (n + n') (k + k') s (f a)
    cases hr : f a with
    | error _ => trivial
    | ok b =>
      rw [hr] at hrest
      exact Metered.trans h hrest

theorem Meters.plain {r : Except State State} (h : Meters id n k s r) : Meters Done.state n k s (plain r) := by
  cases r <;> exact h

/-! ### The primitives -/

theorem meters_transact (x : Tx) (e : Event) (htr : u.trace = s.trace) (hr : u.reads = s.reads) :
    Meters id 1 0 s (transact x e u) := by
  rcases transact_cases x e u with ⟨f, h⟩ | h <;> rw [h]
  · exact ⟨0, by simp [htr], hr⟩
  · trivial

theorem meters_setSignal (m : Byte) (on : Bool) (s : State) : Meters id 1 0 s (setSignal m on s) := meters_transact _ _ rfl rfl

theorem meters_setDir (p : Port) (m : Byte) (input : Bool) (s : State) : Meters id 1 0 s (setDir p m input s) := by
  cases p <;> exact meters_transact _ _ rfl rfl

theorem meters_portIn (s : State) : Meters Prod.snd 1 1 s (portIn s) := by
  have hread := meters_transact (s := s) .rd (.rd (nextInput s)) rfl rfl
  unfold portIn
  rcases hr : transact .rd (.rd (nextInput s)) s with _ | t <;> rw [hr] at hread
  · trivial
  · exact hread.trans (n' := 0) (k' := 1) ⟨0, rfl, rfl⟩

/-! ### The busy poll -/

theorem meters_pollOnce (s : State) : Meters Prod.snd 7 1 s (pollOnce s) := by
  refine (meters_setSignal _ false s).bind (n' := 6) (k' := 1) fun s => ?_
  refine (meters_setSignal _ true s).bind (n' := 5) (k' := 1) fun s => ?_
  refine (meters_setDir .data 0xFF true s).bind (n' := 4) (k' := 1) fun s => ?_
  refine (meters_setSignal _ true s).bind (n' := 3) (k' := 1) fun s => ?_
  refine (meters_portIn s).bind (n' := 2) (k' := 0) fun r => ?_
  refine (meters_setSignal _ false r.2).bind (n' := 1) (k' := 0) fun s => ?_
  exact (meters_setDir .data 0xFF false s).bind (n' := 0) (k' := 0) fun s => .of_silent rfl rfl

/-- One iteration, and the poll as it goes on from there. -/
theorem meters_iteration {fuel n : Nat} {s : State} (hgo : ∀ u, Meters Done.state 0 0 u (goOn fuel n u)) :
    Meters Done.state 0 0 s (busyPoll fuel n s) := by
  have hone := meters_pollOnce s
  rcases hr : pollOnce s with u | ⟨v, u⟩ <;> rw [hr] at hone
  · rw [busyPoll_of_error hr]
    trivial
  · have hiteration : Metered 0 0 s u := Metered.iteration hone
    have hrest := hgo u
    rw [busyPoll_of_ok hr, pollTest]
    split
    · split
      · trivial
      · rcases hg : goOn fuel n u with _ | d <;> rw [hg] at hrest
        · trivial
        · exact hiteration.trans hrest
    · exact hiteration

theorem meters_busyPoll (fuel n : Nat) (s : State) : Meters Done.state 0 0 s (busyPoll fuel n s) := by
  induction fuel generalizing n s with
  | zero => exact meters_iteration fun _ => .of_silent rfl rfl
  | succ fuel ih => exact meters_iteration (ih (n + 1))

end

/-! ## Steps and runs -/

/-- A step that makes an event of its own. -/
def Micro.isEvent : Micro → Bool
  | .sample => true
  | m => m.drives

/-- Steps of `n` events and `k` samples apart from polls, none of which answers. -/
structure Measures (ms : List Micro) (n k : Nat) : Prop where
  events : ms.countP Micro.isEvent = n
  samples : ms.count .sample = k
  unanswered : ms.count .respond = 0

theorem Measures.append {a b : List Micro} {n k n' k' : Nat} (ha : Measures a n k) (hb : Measures b n' k') :
    Measures (a ++ b) (n + n') (k + k') :=
  ⟨by rw [List.countP_append, ha.events, hb.events], by rw [List.count_append, ha.samples, hb.samples],
    by rw [List.count_append, ha.unanswered, hb.unanswered]⟩

theorem Measures.of_eq {ms : List Micro} {n k n' k' : Nat} (h : Measures ms n k) (hn : n = n') (hk : k = k') :
    Measures ms n' k' := hn ▸ hk ▸ h

theorem Measures.flatMap {α : Type} {f : α → List Micro} {l : List α} {n k : Nat} (hf : ∀ x ∈ l, Measures (f x) n k) :
    Measures (l.flatMap f) (l.length * n) (l.length * k) := by
  induction l with
  | nil => exact ⟨by simp, by simp, rfl⟩
  | cons x l ih =>
    obtain ⟨hx, hl⟩ := List.forall_mem_cons.1 hf
    exact (hx.append (ih hl)).of_eq (by rw [List.length_cons, Nat.succ_mul, Nat.add_comm])
      (by rw [List.length_cons, Nat.succ_mul, Nat.add_comm])

theorem meters_perform (m : Micro) (s : State) :
    Meters Done.state ([m].countP Micro.isEvent) ([m].count .sample) s (perform m s) := by
  cases m with
  | signal m on => exact (meters_setSignal m on s).plain
  | dir p m input => exact (meters_setDir p m input s).plain
  | dataOut b => exact (meters_transact (.wd b) (.wd b) rfl rfl).plain
  | sample =>
    have hread := meters_portIn s
    unfold perform
    rcases hr : portIn s with _ | ⟨v, t⟩ <;> rw [hr] at hread
    · trivial
    · exact hread
  | wait =>
    rw [perform, waitReady]
    split
    · exact .of_silent rfl rfl
    · exact meters_busyPoll _ 0 s
  | poll n => exact meters_busyPoll _ n s
  | delay d => exact ⟨0, List.length_append, rfl⟩
  | pos k p => cases k <;> exact .of_silent rfl rfl
  | _ => exact .of_silent rfl rfl

/-- Only `respond` answers. -/
theorem perform_response {m : Micro} (hm : m ≠ .respond) (s : State) : Ends (fun t => t.response = s.response) (perform m s) := by
  by_cases hsample : m = .sample
  · exact hsample ▸ perform_sample_response s
  · exact (perform_unanswered hsample hm s).mono fun _ ht => ht.2

/-- A response that is OK. -/
def AnswersOk (t : State) : Prop := t.response.map Response.status = some .ok

/-- A request that answers OK has made all its steps. -/
theorem metered_run {ms : List Micro} {n k : Nat} {s : State} (hms : Measures ms n k) (hs : s.response = none)
    (hok : AnswersOk (run (ms ++ [.respond]) s)) : Metered n k s (run (ms ++ [.respond]) s) := by
  obtain ⟨rfl, rfl, hrespond⟩ := hms
  induction ms generalizing s with
  | nil => exact .of_silent rfl rfl
  | cons m ms ih =>
    rw [List.count_eq_zero, List.mem_cons, not_or] at hrespond
    obtain ⟨hm, hms⟩ := hrespond
    have hmeter := meters_perform m s
    have hends := perform_response (Ne.symm hm) s
    rw [List.cons_append] at hok ⊢
    rcases hr : perform m s with t | t | ⟨m', t⟩ <;> rw [hr] at hmeter hends
    · rw [run_error hr] at hok
      cases hok
    · rw [run_done hr] at hok ⊢
      have hrest := Metered.trans hmeter (ih (hends.trans hs) hok (List.count_eq_zero.2 hms))
      rwa [← List.countP_append, ← List.count_append] at hrest
    · rw [run_hold hr, AnswersOk, State.setSeq_response, hends.trans hs] at hok
      cases hok

/-! ## The requests -/

section
variable (sg : SigMap)

theorem measures_command (op : LcdOp) (v : Byte) : Measures (command sg op v) 4 0 := ⟨rfl, rfl, rfl⟩

theorem measures_writeBlock {bs : List Byte} (h : bs ≠ []) : Measures (writeBlock sg bs) (3 * bs.length + 3) 0 := by
  have hstart : Measures [.wait, .signal sg.rw false, .signal sg.rs true] 2 0 := ⟨rfl, rfl, rfl⟩
  have hbytes : Measures (bs.flatMap (blockByte sg)) (bs.length * 3) (bs.length * 0) := .flatMap fun _ _ => ⟨rfl, rfl, rfl⟩
  have hend : Measures [.signal (lineMask sg) false] 1 0 := ⟨rfl, rfl, rfl⟩
  have hblock := ((hstart.append hbytes).append hend).of_eq (n' := 3 * bs.length + 3) (k' := 0) (by omega) (by omega)
  cases bs with
  | nil => exact absurd rfl h
  | cons b bs => exact hblock

theorem measures_readBlock {n : Nat} (h : 0 < n) : Measures (readBlock sg n) (3 * n + 5) n := by
  have hstart : Measures [.wait, .signal sg.rs true, .signal sg.rw true, .dir .data 0xFF true] 3 0 := ⟨rfl, rfl, rfl⟩
  have hbytes : Measures ((List.replicate n (readByte sg)).flatMap id) ((List.replicate n (readByte sg)).length * 3)
      ((List.replicate n (readByte sg)).length * 1) := .flatMap fun _ hx => List.eq_of_mem_replicate hx ▸ ⟨rfl, rfl, rfl⟩
  have hend : Measures [.dir .data 0xFF false, .signal (lineMask sg) false] 2 0 := ⟨rfl, rfl, rfl⟩
  rw [List.flatMap_id, List.length_replicate] at hbytes
  have hblock := ((hstart.append hbytes).append hend).of_eq (n' := 3 * n + 5) (k' := n) (by omega) (by omega)
  cases n with
  | zero => exact absurd h (Nat.lt_irrefl 0)
  | succ n => exact hblock

/-- From the tracked position 0 a potentiometer is deselected and not pulsed (43_potentiometer.md R246). -/
theorem measures_potPowerOn (k : Pot) : Measures (potPowerOn sg k 0) 2 0 := ⟨rfl, rfl, rfl⟩

end

/-- From tracked positions 0: the ports, both potentiometers, PWR, and the 35 events of initialisation (41_lcd_control.md R172,
R173). -/
theorem measures_powerOn (s : State) (g : Geometry) :
    Measures (lcdPortsOut s.cfg.sig ++ potPowerOn s.cfg.sig .contrast 0 ++ potPowerOn s.cfg.sig .backlight 0
      ++ [.signal s.cfg.sig.pwr true, .powered true] ++ initProtocol s.cfg g) 42 0 := by
  have hports : Measures (lcdPortsOut s.cfg.sig) 2 0 := ⟨rfl, rfl, rfl⟩
  have hpower : Measures [.signal s.cfg.sig.pwr true, .powered true] 1 0 := ⟨rfl, rfl, rfl⟩
  have hinit : Measures (initProtocol s.cfg g) 35 0 := ⟨rfl, rfl, rfl⟩
  exact (((hports.append (measures_potPowerOn _ .contrast)).append (measures_potPowerOn _ .backlight)).append hpower).append hinit

/-- An instruction that answers OK was run. -/
theorem run_of_ok {i : Instr} {s t : State} (h : exec i s = .next t) (hok : AnswersOk t) :
    ∃ g ms, s.geom = some g ∧ program s i g = .ok ms ∧ t = run ms s.begin := by
  have hrefused : ∀ {e : Status}, AnswersOk (s.refused e) → e = .ok := fun he => Option.some_inj.1 he
  rcases exec_outcome h with ⟨-, rfl⟩ | ⟨g, hg, ⟨e, ha, rfl⟩ | ⟨-, ⟨-, rfl⟩ | ⟨ms, hp, rfl⟩⟩⟩
  · cases hrefused hok
  · cases hrefused hok
    rcases admission_some ha with h | ⟨h, -⟩ <;> cases h
  · cases hrefused hok
  · exact ⟨g, ms, hg, hp, rfl⟩

section
variable {s : State} {prog ms : List Micro} {n k : Nat} (hok : AnswersOk (run prog s.begin)) (hprog : prog = ms ++ [.respond])
include hok hprog

/-- The length of a request that answers OK, by the bytes it reads: seven events to each that is not a sample of its own. -/
theorem length_of_measures (hms : Measures ms n k) :
    (run prog s.begin).trace.length + 7 * k = n + 7 * ((run prog s.begin).reads - s.reads) := by
  subst hprog
  obtain ⟨j, htr, hr⟩ := metered_run hms rfl hok
  rw [State.begin_trace, List.length_nil] at htr
  rw [State.begin_reads] at hr
  omega

/-- The length of one that reads none. -/
theorem length_of_deaf (hdeaf : deaf false prog = true) (hms : Measures ms n 0) : (run prog s.begin).trace.length = n := by
  have hlength := length_of_measures hok hprog hms
  have hreads := ((unheard_begin (s := s) (timed := false) nofun).run hdeaf).reads
  omega

end

/-- Settles O58: the events and samples of each request's steps are counted, and a poll's follow from the bytes read. -/
theorem eventCounts : Obligations.EventCounts := by
  intro s t i h hok q
  obtain ⟨g, prog, hg, hp, rfl⟩ := run_of_ok h hok
  have hcommand : ∀ {op : LcdOp} {v : Byte} {tail : List Micro}, Measures tail 0 0 →
      prog = command s.cfg.sig op v ++ tail ++ [.respond] → (run prog s.begin).trace.length = 4 + 7 * q :=
    fun htail hprog => length_of_measures hok hprog ((measures_command _ _ _).append htail)
  refine ⟨?_, ?_, ?_, ?_, ?_, ?_, ?_⟩
  · rintro rfl hc hb
    cases hp
    exact length_of_deaf hok (by rw [powerOnSteps, hc, hb]) (deaf_lifecycle (i := .powerOn) rfl rfl) (measures_powerOn s g)
  · rintro rfl
    cases hp
    exact length_of_deaf hok (ms := powerOffBody s.cfg.sig) rfl rfl ⟨rfl, rfl, rfl⟩
  · rintro rfl
    cases hp
    exact length_of_deaf hok (ms := powerOffBody s.cfg.sig ++ [.dir .control 0xFF true, .dir .data 0xFF true, .close]) rfl rfl
      ⟨rfl, rfl, rfl⟩
  · have hcursor : ∀ c r, Measures [.cursor c r] 0 0 := fun _ _ => ⟨rfl, rfl, rfl⟩
    have hnone : Measures [] 0 0 := ⟨rfl, rfl, rfl⟩
    simp only [List.mem_cons, List.not_mem_nil, or_false]
    rintro ((rfl | rfl) | ⟨c, r, rfl⟩ | ⟨b, rfl | rfl | rfl⟩) <;> cases hp
    · exact hcommand (hcursor 0 0) rfl
    · exact hcommand (hcursor 0 0) rfl
    · exact hcommand (hcursor _ _) rfl
    · exact hcommand hnone rfl
    · exact hcommand hnone rfl
    · exact hcommand hnone rfl
  · rintro x bitmap rfl hlen
    rw [program, glyphSteps] at hp
    split at hp <;> cases hp
    have hblock := measures_writeBlock s.cfg.sig (List.ne_nil_of_length_pos (by omega : 0 < bitmap.length))
    rw [hlen] at hblock
    exact length_of_measures hok rfl (((measures_command _ _ _).append hblock).append (measures_command _ _ _))
  · rintro row g' rfl hg' hcols
    cases hg.symm.trans hg'
    rw [program, readRowSteps] at hp
    split at hp <;> cases hp
    have hlength := length_of_measures hok rfl
      (((measures_command _ _ _).append (measures_readBlock s.cfg.sig hcols)).append (measures_command _ _ _))
    omega
  · simp only [List.mem_cons, List.not_mem_nil, or_false]
    rintro (rfl | rfl | rfl | rfl) <;> cases hp
    · exact length_of_deaf hok (ms := inc _ .contrast _) rfl rfl ⟨rfl, rfl, rfl⟩
    · exact length_of_deaf hok (ms := dec _ .contrast _) rfl rfl ⟨rfl, rfl, rfl⟩
    · exact length_of_deaf hok (ms := inc _ .backlight _) rfl rfl ⟨rfl, rfl, rfl⟩
    · exact length_of_deaf hok (ms := dec _ .backlight _) rfl rfl ⟨rfl, rfl, rfl⟩

end Sys2Proof.Machine
end

section
/-! OBLIGATION. No rule reads a time value (70_reset_and_hazards.md R311): every part of a request, run with other time values,
answers the same but for these values. -/

namespace Sys2Proof.Machine

/-- Values of the four time parameters (00_scope.md R7). -/
structure Times where
  fs1 : Nat
  fs2 : Nat
  fs3 : Nat
  exec : PerOp Nat

/-- The block with other time values. -/
def State.retime (tm : Times) (s : State) : State :=
  { s with cfg := { s.cfg with tFs1 := tm.fs1, tFs2 := tm.fs2, tFs3 := tm.fs3, tExec := tm.exec } }

/-- The end of a step with other time values. -/
def Done.retime (tm : Times) : Done → Done
  | .done s => .done (s.retime tm)
  | .hold m s => .hold m (s.retime tm)

/-- What part of a step answers, with other time values: `give` gives them to a result. -/
def retimed {α : Type} (tm : Times) (give : α → α) : Except State α → Except State α
  | .error s => .error (s.retime tm)
  | .ok a => .ok (give a)

section
variable {tm : Times}

theorem retimed_bind {α β : Type} {give : α → α} {give' : β → β} {r r' : Except State α} {f f' : α → Except State β}
    (h : r' = retimed tm give r) (hf : ∀ a, f' (give a) = retimed tm give' (f a)) :
    (r' >>= f') = retimed tm give' (r >>= f) := by
  subst h
  cases r with
  | error s => rfl
  | ok a => exact hf a

theorem retimed_plain {r r' : Except State State} (h : r' = retimed tm (State.retime tm) r) :
    plain r' = retimed tm (Done.retime tm) (plain r) := by
  subst h
  cases r <;> rfl

/-! ## The primitives -/

theorem transact_retime (t : Tx) (e : Event) (s : State) :
    transact t e (s.retime tm) = retimed tm (State.retime tm) (transact t e s) := by
  have hdraw : (s.retime tm).faultIn = s.faultIn := rfl
  unfold transact
  rw [hdraw]
  cases s.faultIn with
  | none => rfl
  | some n => cases n <;> rfl

theorem setSignal_retime (m : Byte) (on : Bool) (s : State) :
    setSignal m on (s.retime tm) = retimed tm (State.retime tm) (setSignal m on s) :=
  transact_retime (.wc (maskBits m on s.shadow)) (.wc (maskBits m on s.shadow)) (s.setShadow (maskBits m on s.shadow))

theorem setDir_retime (p : Port) (m : Byte) (input : Bool) (s : State) :
    setDir p m input (s.retime tm) = retimed tm (State.retime tm) (setDir p m input s) := by
  cases p with
  | control =>
    exact transact_retime (.dir .control (maskBits m input s.dirControl)) (.dir .control (maskBits m input s.dirControl))
      (s.setDirOf .control (maskBits m input s.dirControl))
  | data =>
    exact transact_retime (.dir .data (maskBits m input s.dirData)) (.dir .data (maskBits m input s.dirData))
      (s.setDirOf .data (maskBits m input s.dirData))

theorem portIn_retime (s : State) : portIn (s.retime tm) = retimed tm (Prod.map id (State.retime tm)) (portIn s) := by
  have hread : transact .rd (.rd (nextInput (s.retime tm))) (s.retime tm)
      = retimed tm (State.retime tm) (transact .rd (.rd (nextInput s)) s) := transact_retime _ _ s
  unfold portIn
  rw [hread]
  cases transact .rd (.rd (nextInput s)) s <;> rfl

/-! ## The busy poll -/

theorem pollOnce_retime (s : State) : pollOnce (s.retime tm) = retimed tm (Prod.map id (State.retime tm)) (pollOnce s) := by
  refine retimed_bind (setSignal_retime _ false s) fun s => ?_
  refine retimed_bind (setSignal_retime _ true s) fun s => ?_
  refine retimed_bind (setDir_retime .data 0xFF true s) fun s => ?_
  refine retimed_bind (setSignal_retime _ true s) fun s => ?_
  refine retimed_bind (portIn_retime s) fun r => ?_
  refine retimed_bind (setSignal_retime _ false r.2) fun s => ?_
  exact retimed_bind (setDir_retime .data 0xFF false s) fun s => rfl

theorem pollTest_retime {n : Nat} {again : State → Except State Done} {v : Byte} {s : State}
    (h : again (s.retime tm) = retimed tm (Done.retime tm) (again s)) :
    pollTest n again v (s.retime tm) = retimed tm (Done.retime tm) (pollTest n again v s) := by
  have hflag : busyFlag (s.retime tm).cfg v = busyFlag s.cfg v := rfl
  have hdeadline : deadlineReached (s.retime tm).cfg (n + 1) = deadlineReached s.cfg (n + 1) := rfl
  unfold pollTest
  rw [hflag, hdeadline]
  split
  · split
    · rfl
    · exact h
  · rfl

/-- One iteration, and the poll as it goes on from there. -/
theorem iteration_retime {fuel n : Nat} {s : State}
    (hgo : ∀ u : State, goOn fuel n (u.retime tm) = retimed tm (Done.retime tm) (goOn fuel n u)) :
    busyPoll fuel n (s.retime tm) = retimed tm (Done.retime tm) (busyPoll fuel n s) := by
  have hone := pollOnce_retime (tm := tm) s
  rcases hr : pollOnce s with u | ⟨v, u⟩ <;> rw [hr] at hone
  · rw [busyPoll_of_error hr, busyPoll_of_error hone]
    rfl
  · rw [busyPoll_of_ok hr, busyPoll_of_ok hone]
    exact pollTest_retime (hgo u)

theorem busyPoll_retime (fuel n : Nat) (s : State) :
    busyPoll fuel n (s.retime tm) = retimed tm (Done.retime tm) (busyPoll fuel n s) := by
  induction fuel generalizing n s with
  | zero => exact iteration_retime fun _ => rfl
  | succ fuel ih => exact iteration_retime (ih (n + 1))

/-! ## Steps and runs -/

theorem perform_retime (m : Micro) (s : State) : perform m (s.retime tm) = retimed tm (Done.retime tm) (perform m s) := by
  cases m with
  | signal m on => exact retimed_plain (setSignal_retime m on s)
  | dir p m input => exact retimed_plain (setDir_retime p m input s)
  | dataOut b => exact retimed_plain (transact_retime _ _ s)
  | sample =>
    unfold perform
    rw [portIn_retime]
    cases portIn s <;> rfl
  | wait =>
    rw [perform, perform]
    cases hmode : s.waitMode with
    | timedDelay =>
      rw [waitReady_timed hmode, waitReady_timed (s := s.retime tm) hmode]
      rfl
    | busyPoll =>
      rw [waitReady_polls hmode, waitReady_polls (s := s.retime tm) hmode]
      exact busyPoll_retime _ 0 s
  | poll n => exact busyPoll_retime _ n s
  | pos k p => cases k <;> rfl
  | _ => rfl

theorem run_retime (ms : List Micro) (s : State) : run ms (s.retime tm) = (run ms s).retime tm := by
  induction ms generalizing s with
  | nil => rfl
  | cons m ms ih =>
    have hstep := perform_retime (tm := tm) m s
    rcases hr : perform m s with t | t | ⟨m', t⟩ <;> rw [hr] at hstep
    · rw [run_error hr, run_error hstep]
      rfl
    · rw [run_done hr, run_done hstep, ih]
    · rw [run_hold hr, run_hold hstep]
      rfl

/-- An instruction: its steps name no time value, and a block with other time values is admitted alike. -/
theorem exec_retime {i : Instr} {s t : State} (h : exec i s = .next t) : exec i (s.retime tm) = .next (t.retime tm) := by
  have hprogram : program (s.retime tm) i = program s i := by cases i <;> rfl
  rw [exec_eq_serve] at h ⊢
  cases h
  rw [hprogram]
  rcases serve_alike (s := s) (s' := s.retime tm) (program s i) rfl rfl with ⟨e, hs, hs'⟩ | ⟨ms, hs, hs'⟩ <;> rw [hs, hs']
  · rfl
  · exact congrArg Host.Outcome.next (run_retime ms s.begin)

end

/-- Settles O23: the run with other time values is the run itself, with them. -/
theorem timesAreLabels : Obligations.TimesAreLabels := by
  intro i s t t1 t2 t3 te retime h
  exact exec_retime (tm := ⟨t1, t2, t3, te⟩) h

end Sys2Proof.Machine
end

section
/-! SUPPORT. The bus discipline of 70_reset_and_hazards.md R316 and R317 along a run: what is known of EN, RW and the data port
between two steps, and the rule of each step. -/

namespace Sys2Proof.Machine

/-! ## Levels of a signal -/

/-- Switching other bits. -/
theorem signalHigh_maskBits_spare {k m : Byte} (on : Bool) (v : Byte) (h : m &&& k = 0x00#8) :
    signalHigh k (maskBits m on v) = signalHigh k v := signalHigh_congr (maskBits_and_of_disjoint on v h)

/-- Clearing a mask that covers the signal. -/
theorem signalHigh_maskBits_covers {k m : Byte} (v : Byte) (h : k &&& ~~~m = 0x00#8) :
    signalHigh k (maskBits m false v) = false := by
  rw [signalHigh, maskBits_false_and_of_covers v h]
  rfl

/-- Switching the signal itself. -/
theorem signalHigh_maskBits_self {k : Byte} (hk : k ≠ 0x00#8) (on : Bool) (v : Byte) : signalHigh k (maskBits k on v) = on := by
  cases on with
  | true => exact signalHigh_of_and_eq hk (maskBits_true_and_self k v)
  | false => exact signalHigh_maskBits_covers v (BitVec.and_not_self k)

/-- EN and RW are signals. -/
theorem lines_ne_zero {sg : SigMap} (h : sg.wf = true) : sg.en ≠ 0x00#8 ∧ sg.rw ≠ 0x00#8 := by
  simp only [SigMap.wf, SigMap.masks, Bool.and_eq_true, List.all_eq_true] at h
  obtain ⟨hone, -⟩ := h
  exact ⟨oneBit_ne_zero (hone _ (by simp)), oneBit_ne_zero (hone _ (by simp))⟩

/-! ## What is known between two steps -/

/-- The trace of `t`, begun in `s`, keeps the discipline. -/
def Disciplined (s t : State) : Prop := disciplined s.cfg.sig s.shadow s.dirData t.trace = true

/-- The trace of `u`, begun in `s`, keeps the discipline if what follows does from the present pins; EN is at `en`, RW at `rw` and
the data port's direction is `d`, if these are known. -/
structure Obeys (s : State) (en : Bool) (rw : Option Bool) (d : Option Byte) (u : State) : Prop where
  sig : u.cfg.sig = s.cfg.sig
  follows : ∀ tail, disciplined s.cfg.sig s.shadow s.dirData (u.trace ++ tail) = disciplined s.cfg.sig u.shadow u.dirData tail
  en : signalHigh s.cfg.sig.en u.shadow = en
  rw : ∀ b ∈ rw, signalHigh s.cfg.sig.rw u.shadow = b
  data : ∀ b ∈ d, u.dirData = b

/-- Part of a step ends where `P` holds, or faults with a trace that keeps the discipline. -/
def Keeps {α : Type} (s : State) (P : α → Prop) : Except State α → Prop
  | .error t => Disciplined s t
  | .ok a => P a

/-- A step is done where `P` holds, or it faults or is held with a trace that keeps the discipline. -/
def Goes (s : State) (P : State → Prop) : Except State Done → Prop
  | .error t => Disciplined s t
  | .ok (.done t) => P t
  | .ok (.hold _ t) => Disciplined s t

section
variable {s u : State} {en : Bool} {rw : Option Bool} {d : Option Byte}

theorem Obeys.isDisciplined (h : Obeys s en rw d u) : Disciplined s u := by
  have hend := h.follows []
  rwa [List.append_nil] at hend

/-- Nothing more is known of RW. -/
theorem Obeys.forget (h : Obeys s en rw d u) : Obeys s en none d u := { h with rw := nofun }

/-- A failure ends the trace, and breaks no rule. -/
theorem Obeys.failure (h : Obeys s en rw d u) {e : Event} (he : e.isFailure = true) {w dc dd : Byte} :
    Disciplined s { u with shadow := w, dirControl := dc, dirData := dd, trace := u.trace ++ [e] } := by
  refine (h.follows [e]).trans ?_
  cases e with
  | fails | deadline => rfl
  | _ => cases he

theorem Keeps.bind {α β : Type} {P : α → Prop} {Q : β → Prop} {r : Except State α} {f : α → Except State β}
    (h : Keeps s P r) (hf : ∀ a, P a → Keeps s Q (f a)) : Keeps s Q (r >>= f) := by
  cases r with
  | error t => exact h
  | ok a => exact hf a h

theorem Keeps.plain {P : State → Prop} {r : Except State State} (h : Keeps s P r) : Goes s P (plain r) := by
  cases r <;> exact h

theorem keeps_transact {P : State → Prop} {t : Tx} {e : Event} (hok : ∀ f, P ((u.setFaultIn f).emit e))
    (hfail : Disciplined s (u.emit (.fails t))) : Keeps s P (transact t e u) := by
  rcases transact_cases t e u with ⟨f, h⟩ | h <;> rw [h]
  · exact hok f
  · exact hfail

/-- An event that keeps the discipline, whatever follows it. -/
theorem Obeys.extend (h : Obeys s en rw d u) {v : State} {e : Event} (htr : v.trace = u.trace ++ [e])
    (he : ∀ tail, disciplined s.cfg.sig u.shadow u.dirData (e :: tail) = disciplined s.cfg.sig v.shadow v.dirData tail)
    (tail : List Event) :
    disciplined s.cfg.sig s.shadow s.dirData (v.trace ++ tail) = disciplined s.cfg.sig v.shadow v.dirData tail := by
  rw [htr, List.append_assoc]
  exact (h.follows (e :: tail)).trans (he tail)

/-! ## The primitives -/

theorem Obeys.setSignal (h : Obeys s en rw d u) {m : Byte} {on en' : Bool} {rw' : Option Bool}
    (hen : signalHigh s.cfg.sig.en (maskBits m on u.shadow) = en')
    (hrw : ∀ b ∈ rw', signalHigh s.cfg.sig.rw (maskBits m on u.shadow) = b) :
    Keeps s (Obeys s en' rw' d) (setSignal m on u) :=
  keeps_transact (fun _ => ⟨h.sig, h.extend rfl fun _ => rfl, hen, hrw, h.data⟩) (h.failure rfl)

/-- A signal that is neither EN nor RW. -/
theorem Obeys.setOther (h : Obeys s en rw d u) {m : Byte} (hen : m &&& s.cfg.sig.en = 0x00#8) (hrw : m &&& s.cfg.sig.rw = 0x00#8)
    (on : Bool) : Keeps s (Obeys s en rw d) (Machine.setSignal m on u) :=
  h.setSignal ((signalHigh_maskBits_spare on _ hen).trans h.en)
    fun b hb => (signalHigh_maskBits_spare on _ hrw).trans (h.rw b hb)

theorem Obeys.setDirControl (h : Obeys s en rw d u) (m : Byte) (input : Bool) :
    Keeps s (Obeys s en rw d) (setDir .control m input u) :=
  keeps_transact (fun _ => ⟨h.sig, h.extend rfl fun _ => rfl, h.en, h.rw, h.data⟩) (h.failure rfl)

/-- The data port turned while EN is low (R317). -/
theorem Obeys.turn (h : Obeys s false rw d u) (input : Bool) :
    Keeps s (Obeys s false rw (some (if input then 0xFF else 0x00))) (setDir .data 0xFF input u) := by
  have hturn : ∀ m tail, disciplined s.cfg.sig u.shadow u.dirData (.dir .data m :: tail)
      = disciplined s.cfg.sig u.shadow m tail := fun m tail => by
    rw [disciplined, h.en]
    rfl
  exact keeps_transact (fun _ => ⟨h.sig, h.extend rfl (hturn _), h.en, h.rw,
    fun _ hb => (maskBits_all input _).trans (Option.some_inj.1 hb)⟩) (h.failure rfl)

/-- A data byte written while EN is high and RW low, the port an output (R316). -/
theorem Obeys.dataOut (h : Obeys s true (some false) (some 0x00) u) (b : Byte) :
    Keeps s (Obeys s true (some false) (some 0x00)) (portOut .data b u) := by
  have hwrite : ∀ tail, disciplined s.cfg.sig u.shadow u.dirData (.wd b :: tail)
      = disciplined s.cfg.sig u.shadow u.dirData tail := fun tail => by
    rw [disciplined, h.en, h.rw _ rfl, h.data _ rfl]
    rfl
  exact keeps_transact (fun _ => ⟨h.sig, h.extend rfl hwrite, h.en, h.rw, h.data⟩) (h.failure rfl)

/-- The port sampled while EN and RW are high, the port an input (R316). -/
theorem Obeys.portIn (h : Obeys s true (some true) (some 0xFF) u) :
    Keeps s (fun r => Obeys s true (some true) (some 0xFF) r.2) (portIn u) := by
  have hsample : ∀ v tail, disciplined s.cfg.sig u.shadow u.dirData (.rd v :: tail)
      = disciplined s.cfg.sig u.shadow u.dirData tail := fun v tail => by
    rw [disciplined, h.en, h.rw _ rfl, h.data _ rfl]
    rfl
  have hread : Keeps s (Obeys s true (some true) (some 0xFF)) (transact .rd (.rd (nextInput u)) u) :=
    keeps_transact (fun _ => ⟨h.sig, h.extend rfl (hsample _), h.en, h.rw, h.data⟩) (h.failure rfl)
  unfold Machine.portIn
  rcases hr : transact .rd (.rd (nextInput u)) u with t | t <;> rw [hr] at hread
  · exact hread
  · exact { hread with }

/-! ## EN and RW -/

section
variable (hsg : s.cfg.sig.wf = true)
include hsg

theorem Obeys.setEn (h : Obeys s en rw d u) (on : Bool) : Keeps s (Obeys s on rw d) (Machine.setSignal u.cfg.sig.en on u) := by
  have hd := SigMap.wf_disjoint hsg
  rw [h.sig]
  exact h.setSignal (signalHigh_maskBits_self (lines_ne_zero hsg).1 on _)
    fun b hb => (signalHigh_maskBits_spare on _ (and_zero_comm hd.rw_en)).trans (h.rw b hb)

theorem Obeys.setRw (h : Obeys s en rw d u) (on : Bool) :
    Keeps s (Obeys s en (some on) d) (Machine.setSignal u.cfg.sig.rw on u) := by
  have hd := SigMap.wf_disjoint hsg
  rw [h.sig]
  exact h.setSignal ((signalHigh_maskBits_spare on _ hd.rw_en).trans h.en)
    fun b hb => (signalHigh_maskBits_self (lines_ne_zero hsg).2 on _).trans (Option.some_inj.1 hb)

theorem Obeys.setRs (h : Obeys s en rw d u) (on : Bool) : Keeps s (Obeys s en rw d) (Machine.setSignal u.cfg.sig.rs on u) := by
  have hd := SigMap.wf_disjoint hsg
  rw [h.sig]
  exact h.setOther hd.rs_en hd.rs_rw on

/-- RS and RW cleared together (40_bus_primitives.md R140, step 2). -/
theorem Obeys.selectWrite (h : Obeys s en rw d u) :
    Keeps s (Obeys s en (some false) d) (Machine.setSignal (s.cfg.sig.rs ||| s.cfg.sig.rw) false u) := by
  have hd := SigMap.wf_disjoint hsg
  refine h.setSignal ((signalHigh_maskBits_spare false _ (or_disjoint.2 ⟨hd.rs_en, hd.rw_en⟩)).trans h.en)
    fun b hb => (signalHigh_maskBits_covers _ ?_).trans (Option.some_inj.1 hb)
  rw [BitVec.not_or, BitVec.and_comm (~~~s.cfg.sig.rs), ← BitVec.and_assoc, BitVec.and_not_self]
  exact BitVec.zero_and

omit hsg in
/-- The lines cleared, which ends a transfer (R144). -/
theorem Obeys.release (h : Obeys s en rw d u) :
    Keeps s (Obeys s false none d) (Machine.setSignal (lineMask s.cfg.sig) false u) := by
  have hlines : lineMask s.cfg.sig &&& ~~~(lineMask s.cfg.sig) = 0x00#8 := BitVec.and_not_self _
  exact h.setSignal (signalHigh_maskBits_covers _ (lineMask_and_eq_zero.1 hlines).2.2) nofun

/-! ## The busy poll -/

/-- An iteration (40_bus_primitives.md R139) samples in the middle of a read cycle and leaves the port an output. -/
theorem Obeys.pollOnce (h : Obeys s false rw d u) :
    Keeps s (fun r => Obeys s false none (some 0x00) r.2) (pollOnce u) := by
  refine (h.setRs hsg false).bind fun u h => ?_
  refine (h.setRw hsg true).bind fun u h => ?_
  refine (h.turn true).bind fun u h => ?_
  refine (h.setEn hsg true).bind fun u h => ?_
  refine h.portIn.bind fun r h => ?_
  refine (h.setEn hsg false).bind fun u h => ?_
  exact (h.turn false).bind fun u h => h.forget

theorem Obeys.iteration (h : Obeys s false rw d u) {fuel n : Nat}
    (hgo : ∀ t, Obeys s false none (some 0x00) t → Goes s (Obeys s false none (some 0x00)) (goOn fuel n t)) :
    Goes s (Obeys s false none (some 0x00)) (busyPoll fuel n u) := by
  have hone := h.pollOnce hsg
  rcases hr : Machine.pollOnce u with t | ⟨v, t⟩ <;> rw [hr] at hone
  · rw [busyPoll_of_error hr]
    exact hone
  · have ht : Obeys s false none (some 0x00) t := hone
    rw [busyPoll_of_ok hr, pollTest]
    split
    · split
      · exact ht.failure rfl
      · exact hgo t ht
    · exact ht

theorem Obeys.busyPoll (h : Obeys s false rw d u) (fuel n : Nat) :
    Goes s (Obeys s false none (some 0x00)) (busyPoll fuel n u) := by
  induction fuel generalizing n rw d u with
  | zero => exact h.iteration hsg fun _ ht => ht.isDisciplined
  | succ fuel ih => exact h.iteration hsg fun _ ht => ih ht (n + 1)

theorem Obeys.waitReady (h : Obeys s false rw (some 0x00) u) : Goes s (Obeys s false none (some 0x00)) (waitReady u) := by
  unfold Machine.waitReady
  split
  · exact h.forget
  · exact h.busyPoll hsg _ 0

end

end

/-! ## Runs -/

/-- The steps go from `P` to `Q`: whatever is left to run after them, the trace keeps the discipline if it does so from `Q` on. -/
def Abides (s : State) (P : State → Prop) (ms : List Micro) (Q : State → Prop) : Prop :=
  ∀ rest u, P u → (∀ v, Q v → Disciplined s (run rest v)) → Disciplined s (run (ms ++ rest) u)

section
variable {s : State} {P Q R : State → Prop} {a b : List Micro}

theorem Abides.append (h : Abides s P a Q) (k : Abides s Q b R) : Abides s P (a ++ b) R := fun rest u hu hrest => by
  rw [List.append_assoc]
  exact h _ u hu fun v hv => k rest v hv hrest

theorem Abides.done (hPQ : ∀ u, P u → Q u) : Abides s P [] Q := fun _ u hu hrest => hrest u (hPQ u hu)

theorem Abides.cons {m : Micro} (hm : ∀ u, P u → Goes s Q (perform m u)) (k : Abides s Q b R) : Abides s P (m :: b) R :=
  fun rest u hu hrest => by
    have hstep := hm u hu
    rw [List.cons_append]
    rcases hr : perform m u with t | t | ⟨m', t⟩ <;> rw [hr] at hstep
    · rw [run_error hr]
      exact hstep
    · rw [run_done hr]
      exact k rest t hstep hrest
    · rw [run_hold hr]
      exact hstep

/-- Steps that lead back to where they begin, over a list. -/
theorem Abides.flatMap {α : Type} {f : α → List Micro} (hf : ∀ x, Abides s P (f x) P) (l : List α) :
    Abides s P (l.flatMap f) P := by
  induction l with
  | nil => exact .done fun _ h => h
  | cons x l ih => exact (hf x).append ih

/-- The whole run, when its steps are all. -/
theorem Abides.disciplined (h : Abides s P a Q) (hQ : ∀ u, Q u → Disciplined s u) {u : State} (hu : P u) :
    Disciplined s (run a u) := by
  have hrun := h [] u hu hQ
  rwa [List.append_nil] at hrun

end

end Sys2Proof.Machine
end

section
/-! OBLIGATION. The bus discipline (70_reset_and_hazards.md R316, R317): each part of a request's pseudocode, from EN low and the
data port an output, comes back to it. -/

namespace Sys2Proof.Machine

/-! ## Steps that leave EN, RW and the data port alone -/

/-- The step switches neither EN nor RW, and does not use the data port. -/
def Micro.rests (sg : SigMap) : Micro → Prop
  | .signal m _ => m &&& sg.en = 0x00#8 ∧ m &&& sg.rw = 0x00#8
  | .dir p _ _ => p = .control
  | .dataOut _ => False
  | .sample => False
  | .wait => False
  | .poll _ => False
  | _ => True

section
variable {s : State} {en : Bool} {rw : Option Bool} {d : Option Byte}

theorem Obeys.perform_rests {u : State} (h : Obeys s en rw d u) {m : Micro} (hm : m.rests s.cfg.sig) :
    Goes s (Obeys s en rw d) (perform m u) := by
  cases m with
  | signal m on => exact (h.setOther hm.1 hm.2 on).plain
  | dir p m input =>
    cases hm
    exact (h.setDirControl m input).plain
  | delay t => exact { h with follows := h.extend rfl fun _ => rfl }
  | pos k p => cases k <;> exact { h with }
  | dataOut | sample | wait | poll => exact hm.elim
  | _ => exact { h with }

theorem abides_rests {ms : List Micro} (hms : ∀ m ∈ ms, m.rests s.cfg.sig) :
    Abides s (Obeys s en rw d) ms (Obeys s en rw d) := by
  induction ms with
  | nil => exact .done fun _ h => h
  | cons m ms ih =>
    obtain ⟨hm, hms⟩ := List.forall_mem_cons.1 hms
    exact .cons (fun _ h => h.perform_rests hm) (ih hms)

end

section
variable {sg : SigMap} (hsg : sg.wf = true)
include hsg

theorem rests_select (k : Pot) (on : Bool) : (Micro.signal (selectMask sg k) on).rests sg := by
  have hd := SigMap.wf_disjoint hsg
  cases k with
  | contrast => exact ⟨and_zero_comm hd.en_ccs, and_zero_comm hd.rw_ccs⟩
  | backlight => exact ⟨and_zero_comm hd.en_bcs, and_zero_comm hd.rw_bcs⟩

theorem rests_ud (on : Bool) : (Micro.signal sg.ud on).rests sg := by
  have hd := SigMap.wf_disjoint hsg
  exact ⟨and_zero_comm hd.en_ud, and_zero_comm hd.rw_ud⟩

theorem rests_pwr (on : Bool) : (Micro.signal sg.pwr on).rests sg := by
  have hd := SigMap.wf_disjoint hsg
  exact ⟨and_zero_comm hd.en_pwr, and_zero_comm hd.rw_pwr⟩

theorem rests_stepPulse (k : Pot) (up : Bool) : ∀ m ∈ stepPulse sg k up, m.rests sg := by
  simp [stepPulse, rests_ud hsg, rests_select hsg]

theorem rests_setWiper (k : Pot) (p target : Nat) : ∀ m ∈ setWiper sg k p target, m.rests sg := by
  have hpos : ∀ j, (Micro.pos k j).rests sg := fun _ => trivial
  unfold setWiper
  dsimp only
  split
  · nofun
  · simp [burst, burstPulse, rests_ud hsg, rests_select hsg, hpos, or_imp, forall_and]

theorem rests_potPowerOn (k : Pot) (p : Nat) : ∀ m ∈ potPowerOn sg k p, m.rests sg := by
  have hport : ∀ mask input, (Micro.dir .control mask input).rests sg := fun _ _ => rfl
  exact List.forall_mem_append.2 ⟨by simp [hport, rests_select hsg], rests_setWiper hsg k p 0⟩

theorem rests_powerOffBody : ∀ m ∈ powerOffBody sg, m.rests sg := by
  have hport : ∀ mask input, (Micro.dir .control mask input).rests sg := fun _ _ => rfl
  have hmode : (Micro.powered false).rests sg ∧ (Micro.ctrl .uninitialized).rests sg ∧ (Micro.mode .timedDelay).rests sg :=
    ⟨trivial, trivial, trivial⟩
  simp [powerOffBody, potPowerOff, hport, rests_pwr hsg, hmode]

end

/-! ## Transfers (40_bus_primitives.md section 4) -/

/-- EN low and the data port an output, as R144 leaves them. -/
abbrev Resting (s : State) : State → Prop := Obeys s false none (some 0x00)

section
variable {s : State} (hsg : s.cfg.sig.wf = true)
include hsg

theorem abides_wait : Abides s (Resting s) [.wait] (Resting s) := .cons (fun _ h => h.waitReady hsg) (.done fun _ h => h)

omit hsg in
/-- A step that switches one signal. -/
theorem abides_switch {P Q : State → Prop} {m : Byte} {on : Bool} (h : ∀ u, P u → Keeps s Q (setSignal m on u)) :
    Abides s P [.signal m on] Q := .cons (fun u hu => (h u hu).plain) (.done fun _ hu => hu)

section
variable {en : Bool} {rw : Option Bool} {d : Option Byte}

theorem abides_en (on : Bool) : Abides s (Obeys s en rw d) [.signal s.cfg.sig.en on] (Obeys s on rw d) :=
  abides_switch fun _ h => h.sig ▸ h.setEn hsg on

theorem abides_rw (on : Bool) : Abides s (Obeys s en rw d) [.signal s.cfg.sig.rw on] (Obeys s en (some on) d) :=
  abides_switch fun _ h => h.sig ▸ h.setRw hsg on

theorem abides_rs (on : Bool) : Abides s (Obeys s en rw d) [.signal s.cfg.sig.rs on] (Obeys s en rw d) :=
  abides_switch fun _ h => h.sig ▸ h.setRs hsg on

omit hsg in
theorem abides_release : Abides s (Obeys s en rw d) [.signal (lineMask s.cfg.sig) false] (Obeys s false none d) :=
  abides_switch fun _ h => h.release

omit hsg in
theorem abides_turn (input : Bool) : Abides s (Obeys s false rw d) [.dir .data 0xFF input]
    (Obeys s false rw (some (if input then 0xFF else 0x00))) :=
  .cons (fun _ h => (h.turn input).plain) (.done fun _ h => h)

end

omit hsg in
theorem abides_dataOut (b : Byte) : Abides s (Obeys s true (some false) (some 0x00)) [.dataOut b]
    (Obeys s true (some false) (some 0x00)) :=
  .cons (fun _ h => (h.dataOut b).plain) (.done fun _ h => h)

omit hsg in
theorem abides_sample : Abides s (Obeys s true (some true) (some 0xFF)) [.sample] (Obeys s true (some true) (some 0xFF)) :=
  .cons (fun u h => by
    have hread := h.portIn
    rw [perform]
    rcases hr : portIn u with t | ⟨v, t⟩ <;> rw [hr] at hread
    · exact hread
    · exact { hread with }) (.done fun _ h => h)

/-- The instruction-write cycle (R140). -/
theorem abides_instructionCycle (b : Byte) : Abides s (Resting s) (instructionCycle s.cfg.sig b) (Resting s) :=
  (abides_switch fun _ h => h.selectWrite hsg).append ((abides_en hsg true).append ((abides_dataOut b).append abides_release))

theorem abides_command (op : LcdOp) (v : Byte) : Abides s (Resting s) (command s.cfg.sig op v) (Resting s) :=
  (abides_wait hsg).append ((abides_instructionCycle hsg _).append (abides_rests (ms := [.record op v]) (by simp [Micro.rests])))

/-- The data-write cycles (R142). -/
theorem abides_writeCycles (bs : List Byte) : Abides s (Resting s) (writeCycles s.cfg.sig bs) (Resting s) := by
  have hbyte : ∀ b, Abides s (Obeys s false (some false) (some 0x00)) (blockByte s.cfg.sig b)
      (Obeys s false (some false) (some 0x00)) := fun b =>
    (abides_en hsg true).append ((abides_dataOut b).append (abides_en hsg false))
  exact ((abides_rw hsg false).append ((abides_rs hsg true).append (.flatMap hbyte bs))).append abides_release

theorem abides_writeBlock (bs : List Byte) : Abides s (Resting s) (writeBlock s.cfg.sig bs) (Resting s) := by
  cases bs with
  | nil => exact .done fun _ h => h
  | cons b bs => exact (abides_wait hsg).append (abides_writeCycles hsg _)

/-- A byte sampled in its own EN pulse (R139, R143). -/
theorem abides_readByte : Abides s (Obeys s false (some true) (some 0xFF)) (readByte s.cfg.sig)
    (Obeys s false (some true) (some 0xFF)) :=
  (abides_en hsg true).append (abides_sample.append (abides_en hsg false))

/-- The data-read cycles (R143). -/
theorem abides_readCycles (n : Nat) : Abides s (Resting s) (readCycles s.cfg.sig n) (Resting s) := by
  have hbytes : Abides s (Obeys s false (some true) (some 0xFF)) (List.replicate n (readByte s.cfg.sig)).flatten
      (Obeys s false (some true) (some 0xFF)) := by
    induction n with
    | zero => exact .done fun _ h => h
    | succ n ih => exact (abides_readByte hsg).append ih
  have hstart : Abides s (Resting s) [.signal s.cfg.sig.rs true, .signal s.cfg.sig.rw true, .dir .data 0xFF true]
      (Obeys s false (some true) (some 0xFF)) :=
    (abides_rs hsg true).append ((abides_rw hsg true).append (abides_turn true))
  exact (hstart.append hbytes).append ((abides_turn false).append abides_release)

theorem abides_readBlock (n : Nat) : Abides s (Resting s) (readBlock s.cfg.sig n) (Resting s) := by
  cases n with
  | zero => exact .done fun _ h => h
  | succ n => exact (abides_wait hsg).append (abides_readCycles hsg _)

/-- One busy-flag read (R139), which leaves RW high. -/
theorem abides_busyCycle : Abides s (Resting s) (busyCycle s.cfg.sig) (Resting s) :=
  (abides_rs hsg false).append ((abides_rw hsg true).append ((abides_turn true).append ((abides_readByte hsg).append
    ((abides_turn false).append (.done fun _ h => h.forget)))))

theorem abides_transferSteps (g : Geometry) (t : Transfer) : Abides s (Resting s) (transferSteps s.cfg.sig g t) (Resting s) := by
  cases t with
  | address c r => exact abides_command hsg _ _
  | block bs => exact abides_writeBlock hsg bs

/-! ## Instructions -/

/-- POWER_ON makes the data port an output first (41_lcd_control.md R171, R173). -/
theorem abides_powerOn (d : Option Byte) (g : Geometry) : Abides s (Obeys s false none d) (powerOnSteps s g) (Resting s) := by
  have hports : Abides s (Obeys s false none d) (lcdPortsOut s.cfg.sig) (Resting s) :=
    (abides_rests (ms := [.dir .control _ false]) (by simp [Micro.rests])).append
      (abides_turn false)
  have hpots : ∀ k p, Abides s (Resting s) (potPowerOn s.cfg.sig k p) (Resting s) := fun k p =>
    abides_rests (rests_potPowerOn hsg k p)
  have hpower : Abides s (Resting s) [.signal s.cfg.sig.pwr true, .powered true] (Resting s) :=
    abides_rests (List.forall_mem_cons.2 ⟨rests_pwr hsg true, by simp [Micro.rests]⟩)
  have hinit : ∀ op v t, Abides s (Resting s) (initCommand s.cfg.sig op v t) (Resting s) := fun op v t =>
    (abides_command hsg op v).append (abides_rests (ms := [.delay t]) (by simp [Micro.rests]))
  have hstart : Abides s (Resting s) [.ctrl .initializing, .mode .timedDelay] (Resting s) := abides_rests (by simp [Micro.rests])
  have hend : Abides s (Resting s) [.cursor 0 0, .mode .busyPoll, .ctrl .ready] (Resting s) := abides_rests (by simp [Micro.rests])
  have hprotocol : Abides s (Resting s) (initProtocol s.cfg g) (Resting s) :=
    (((((((hstart.append (hinit _ _ _)).append (hinit _ _ _)).append (hinit _ _ _)).append (hinit _ _ _)).append
      (hinit _ _ _)).append (hinit _ _ _)).append (hinit _ _ _)).append hend
  exact ((((hports.append (hpots _ _)).append (hpots _ _)).append hpower).append hprotocol).append
    (abides_rests (ms := [.respond]) (by simp [Micro.rests]))

omit hsg in
theorem abides_respond {d : Option Byte} : Abides s (Obeys s false none d) [.respond] (Obeys s false none d) :=
  abides_rests (by simp [Micro.rests])

/-- The lifecycle requests keep the discipline whatever the data port's direction; CLOSE makes it an input while EN is low
(R175). -/
theorem abides_lifecycle {i : Instr} {g : Geometry} {ms : List Micro} (hi : i.lifecycle = true) (hp : program s i g = .ok ms)
    (d : Option Byte) : ∃ d', Abides s (Obeys s false none d) ms (Obeys s false none d') := by
  have hoff : Abides s (Obeys s false none d) (powerOffBody s.cfg.sig) (Obeys s false none d) :=
    abides_rests (rests_powerOffBody hsg)
  cases i with
  | powerOn => cases hp; exact ⟨_, abides_powerOn hsg d g⟩
  | powerOff => cases hp; exact ⟨_, hoff.append abides_respond⟩
  | close =>
    cases hp
    have hcontrol : Abides s (Obeys s false none d) [.dir .control 0xFF true] (Obeys s false none d) :=
      abides_rests (by simp [Micro.rests])
    have hclosed : Abides s (Obeys s false none (some 0xFF)) [.close] (Obeys s false none (some 0xFF)) :=
      abides_rests (by simp [Micro.rests])
    exact ⟨_, hoff.append (hcontrol.append ((abides_turn true).append (hclosed.append abides_respond)))⟩
  | _ => cases hi

/-- Every other instruction begins and ends with the data port an output. -/
theorem abides_program {i : Instr} {g : Geometry} {ms : List Micro} (hi : i.lifecycle = false) (hp : program s i g = .ok ms) :
    Abides s (Resting s) ms (Resting s) := by
  have hcursor : ∀ c r, Abides s (Resting s) [.cursor c r, .respond] (Resting s) := fun _ _ =>
    abides_rests (by simp [Micro.rests])
  have hpos : ∀ k p, Abides s (Resting s) [.pos k p] (Resting s) := fun _ _ => abides_rests (by simp [Micro.rests])
  cases i with
  | powerOn | powerOff | close => cases hi
  | clear | home => cases hp; exact (abides_command hsg _ _).append (hcursor 0 0)
  | setCursor col row => cases hp; exact (abides_command hsg _ _).append (hcursor _ _)
  | print text => cases hp; exact (Abides.flatMap (abides_transferSteps hsg g) _).append (hcursor _ _)
  | defineGlyph index bitmap =>
    rw [program, glyphSteps] at hp
    split at hp <;> cases hp
    exact (((abides_command hsg _ _).append (abides_writeBlock hsg bitmap)).append (abides_command hsg _ _)).append abides_respond
  | readRow row =>
    rw [program, readRowSteps] at hp
    split at hp <;> cases hp
    exact (((abides_command hsg _ _).append (abides_readBlock hsg _)).append (abides_command hsg _ _)).append abides_respond
  | setContrast | setBacklight => cases hp; exact (abides_rests (rests_setWiper hsg _ _ _)).append abides_respond
  | contrastInc | contrastDec | backlightInc | backlightDec =>
    cases hp
    exact ((abides_rests (rests_stepPulse hsg _ _)).append (hpos _ _)).append abides_respond
  | busInstructionWrite data => cases hp; exact (abides_instructionCycle hsg data).append abides_respond
  | busBusyRead => cases hp; exact (abides_busyCycle hsg).append abides_respond
  | busDataWrite data => cases hp; exact (abides_writeCycles hsg [data]).append abides_respond
  | busDataRead => cases hp; exact (abides_readCycles hsg 1).append abides_respond
  | _ => cases hp; exact (abides_command hsg _ _).append abides_respond

end

/-- Settles O21: from EN low each part of an instruction keeps the discipline and comes back to EN low. -/
theorem busDiscipline : Obligations.BusDiscipline := by
  intro i s t hsg hlines hport h
  rcases exec_outcome h with ⟨-, rfl⟩ | ⟨g, -, ⟨e, -, rfl⟩ | ⟨ha, ⟨-, rfl⟩ | ⟨ms, hp, rfl⟩⟩⟩
  · rfl
  · rfl
  · rfl
  · have hen : signalHigh s.cfg.sig.en s.shadow = false := by
      rw [lineMask, disjoint_or] at hlines
      exact decide_eq_false (not_not.2 hlines.2)
    have hbegin : ∀ d : Option Byte, (∀ b ∈ d, s.dirData = b) → Obeys s false none d s.begin := fun d hd =>
      ⟨rfl, fun _ => rfl, hen, nofun, hd⟩
    cases hl : i.lifecycle with
    | true =>
      obtain ⟨d, habides⟩ := abides_lifecycle hsg hl hp none
      exact habides.disciplined (fun _ hu => hu.isDisciplined) (hbegin none nofun)
    | false =>
      have hready : s.ctrl = .ready ∨ i.isRequest = false := by
        cases hreq : i.isRequest with
        | true => exact .inl (admission_ready (needsReady_of_request (.inl ⟨hreq, hl⟩) ▸ ha))
        | false => exact .inr rfl
      exact (abides_program hsg hl hp).disciplined (fun _ hu => hu.isDisciplined)
        (hbegin _ fun b hb => (hport hready).trans (Option.some_inj.1 hb))

end Sys2Proof.Machine
end
